-- ==== Sys2Proof/Word.lean ====
section
/-! DEFINITION. The one word type of the hardware (00_scope R5, R13, R14): `PORT_WIDTH` is 8, so both registers,
every written value and the pin vectors are 8 bits wide, bit 0 least significant, every value unsigned. -/

namespace Sys2Proof

/-- An 8-bit value: a register, a written value, a vector of the port's 8 pins (00_scope R5). -/
abbrev Byte := BitVec 8

end Sys2Proof
end

