-- ==== Sys2Proof/Config.lean ====
section
/-! DEFINITION. The configuration record: the parameters of 00_scope section 6, fixed for the life of the hardware
(R12). Addresses and the delay count are natural numbers bounded by the widths `aw` and `cw` (R9, R10, R14 allow it:
no rule adds, shifts or masks an address, and `iter` never wraps). `PORT_WIDTH` is no parameter (R5). -/

namespace Sys2Proof

/-- What an instance of the block fixes before it exists (00_scope section 6). -/
structure Config where
  /-- `AW`, the width of an address in bits (R9). -/
  aw : Nat
  /-- `CW`, the width of the delay counter in bits (R10). -/
  cw : Nat
  /-- `DIR_ADDR`, the address of the direction-control register (R6). -/
  dirAddr : Nat
  /-- `DATA_ADDR`, the address of the data register (R6). -/
  dataAddr : Nat
  /-- `LED_PIN`, the index of the pin the controller drives (R7). -/
  ledPin : Nat
  /-- `DELAY_COUNT`, the iterations of the delay per cycle (R8). -/
  delayCount : Nat
  /-- `DIR_RESET`, what `DIR` holds after reset (10_state R41). -/
  dirReset : Byte
  /-- `DATA_RESET`, what `DATA` holds after reset; the spec leaves it OPEN (10_state R41), so statements quantify over it. -/
  dataReset : Byte
  /-- `EXT_WRITERS`, whether the external writer ENV is present (20_memory R65). -/
  extWriters : Bool
  deriving DecidableEq, Repr

/-- The reference scenario with the build values of the two reset parameters (00_scope section 6, glossary).
DESIGN CHOICE (log 2, 3): this is the instance that `State.reset` starts; nothing else in the model rests on it. -/
def Config.reference : Config where
  aw := 8
  cw := 32
  dirAddr := 0x04
  dataAddr := 0x05
  ledPin := 5
  delayCount := 100000
  dirReset := 0x00
  dataReset := 0x00
  extWriters := false

end Sys2Proof
end

