-- ==== Sys2Proof/Syntax.lean ====
section
/-! DEFINITION. The eight operations of the hardware (30_encoding R70, R78), one constructor for each row of the
opcode table, under the names of R82. -/

namespace Sys2Proof

/-- Who issues a write transaction (40_register_write R90, `issuer is SEQ`). The issuer is no part of a W word:
it is which master drives the write port (DEDUCED, log 6). -/
inductive Issuer where
  /-- The sequencer: its writes are recorded in the trace (10_state R34). -/
  | seq
  /-- The optional external writer: its writes are not recorded (20_memory R65). -/
  | env
  deriving DecidableEq, Repr

/-- The operations (30_encoding R78). The three `OUTB` rows are what REGIF does with a write transaction;
the five `SEQ` rows are the micro-operations, whose operands are the configuration's parameters. -/
inductive Instr where
  /-- `OUTB.DIR value` (R91). -/
  | outbDir (issuer : Issuer) (value : Byte)
  /-- `OUTB.DATA value` (R92). -/
  | outbData (issuer : Issuer) (value : Byte)
  /-- `OUTB.UNMAPPED addr, value` (R93). -/
  | outbUnmapped (issuer : Issuer) (addr : Nat) (value : Byte)
  /-- `SEQ.CFG` (R109). -/
  | seqCfg
  /-- `SEQ.ASSERT` (R110). -/
  | seqAssert
  /-- `SEQ.TICK` (R101). -/
  | seqTick
  /-- `SEQ.DEASSERT` (R111). -/
  | seqDeassert
  /-- `SEQ.LOOP` (R112). -/
  | seqLoop
  deriving DecidableEq, Repr

end Sys2Proof
end

