-- ==== Sys2Proof/WellFormed.lean ====
section
/-! DEFINITION. Which configurations the hardware exists for (00_scope R11) and which operations they have
(40_register_write R90 to R93). Both are decidable checks on data. -/

namespace Sys2Proof

/-- A well-formed configuration: the five conditions of 00_scope R11. That `AW >= 1` (R9) follows from two
distinct addresses fitting in `AW` bits. -/
abbrev Config.WellFormed (c : Config) : Prop :=
  c.ledPin < 8 ∧ c.dirAddr < 2 ^ c.aw ∧ c.dataAddr < 2 ^ c.aw ∧ c.dirAddr ≠ c.dataAddr ∧ c.delayCount < 2 ^ c.cw

/-- A location of the register address space that is neither register (20_memory R45, R46). -/
abbrev Config.Unmapped (c : Config) (addr : Nat) : Prop :=
  addr < 2 ^ c.aw ∧ addr ≠ c.dirAddr ∧ addr ≠ c.dataAddr

/-- An operation of the hardware configured by `c`: only `OUTB.UNMAPPED` has an operand that is restricted,
its address being "any value other than the two mapped addresses" (R93). -/
def Instr.wellFormed (c : Config) : Instr → Bool
  | .outbUnmapped _ addr _ => decide (c.Unmapped addr)
  | .outbDir _ _ | .outbData _ _ => true
  | .seqCfg | .seqAssert | .seqTick | .seqDeassert | .seqLoop => true

end Sys2Proof
end

