-- ==== Sys2Proof/Decode.lean ====
section
/-! DEFINITION. The two formats of 30_encoding: the write transaction word W (R71, R77) and the selection word S
(R72, R78). Words are natural numbers, since the width of W is a parameter. Decoding is total and rejects by name;
the encoder stands after it, written from the same tables. -/

namespace Sys2Proof

/-- Where a word is, which alone decides its format (30_encoding R81): on the write port, driven by an issuer,
or inside SEQ. -/
inductive Place where
  | writePort (issuer : Issuer)
  | sequencer
  deriving DecidableEq, Repr

/-- Why a word is rejected. -/
inductive DecodeError where
  /-- `sel[2:0]` is `011`, `100`, `110` or `111`: it selects no micro-operation (30_encoding R79). -/
  | reservedSelection
  /-- The number needs more than the 4 bits of format S (30_encoding R72). -/
  | notASelectionWord
  /-- The number needs more than the `AW + 8` bits of format W (30_encoding R71). -/
  | notATransactionWord
  deriving DecidableEq, Repr

/-- `W[AW+7:8]`, the address of a transaction word (30_encoding R71). -/
def wordAddr (w : Nat) : Nat := w / 256

/-- `W[7:0]`, the value of a transaction word (30_encoding R71). -/
def wordValue (w : Nat) : Byte := BitVec.ofNat 8 w

/-- The transaction word `addr ++ value` (30_encoding R71). -/
def transactionWord (addr : Nat) (value : Byte) : Nat := addr * 256 + value.toNat

/-- Format W: compare the address with `DIR_ADDR`, then with `DATA_ADDR`, else unmapped (30_encoding R77). -/
def decodeTransaction (c : Config) (issuer : Issuer) (w : Nat) : Except DecodeError Instr :=
  if 2 ^ (c.aw + 8) ≤ w then .error .notATransactionWord
  else if wordAddr w = c.dirAddr then .ok (.outbDir issuer (wordValue w))
  else if wordAddr w = c.dataAddr then .ok (.outbData issuer (wordValue w))
  else .ok (.outbUnmapped issuer (wordAddr w) (wordValue w))

/-- A row of the selection table: a word `w` selects `op` when `w` masked is `pattern` (30_encoding R78). -/
structure SelectionRow where
  mask : Nat
  pattern : Nat
  op : Instr
  deriving DecidableEq, Repr

/-- The five S rows of 30_encoding R78. -/
def selectionRows : List SelectionRow :=
  [⟨0x7, 0x0, .seqCfg⟩, ⟨0x7, 0x1, .seqAssert⟩, ⟨0xF, 0x5, .seqTick⟩, ⟨0xF, 0xD, .seqDeassert⟩, ⟨0x7, 0x2, .seqLoop⟩]

/-- Format S: the micro-operation a selection word selects; a code no row matches is reserved (30_encoding R78, R79). -/
def decodeSelection (w : Nat) : Except DecodeError Instr :=
  if 16 ≤ w then .error .notASelectionWord
  else match selectionRows.find? (fun row => w &&& row.mask == row.pattern) with
    | some row => .ok row.op
    | none => .error .reservedSelection

/-- The decoder: the place gives the format (30_encoding R81). -/
def decode (c : Config) (place : Place) (w : Nat) : Except DecodeError Instr :=
  match place with
  | .writePort issuer => decodeTransaction c issuer w
  | .sequencer => decodeSelection w

/-- Where an operation's word stands (30_encoding R70, R81). -/
def placeOf : Instr → Place
  | .outbDir issuer _ | .outbData issuer _ | .outbUnmapped issuer _ _ => .writePort issuer
  | .seqCfg | .seqAssert | .seqTick | .seqDeassert | .seqLoop => .sequencer

/-- How many bits a word has at a place: `AW + 8` for format W, 4 for format S (30_encoding R71, R72). -/
def wordBits (c : Config) : Place → Nat
  | .writePort _ => c.aw + 8
  | .sequencer => 4

/-- The encoder. A selection bit the spec ignores (`-` in R78) is written as 0 (DESIGN CHOICE, log 15). -/
def encode (c : Config) : Instr → Nat
  | .outbDir _ value => transactionWord c.dirAddr value
  | .outbData _ value => transactionWord c.dataAddr value
  | .outbUnmapped _ addr value => transactionWord addr value
  | .seqCfg => 0b0000
  | .seqAssert => 0b0001
  | .seqTick => 0b0101
  | .seqDeassert => 0b1101
  | .seqLoop => 0b0010

/-- The decoder on the opcode table's numbering, for the configuration the table is written for
(`Config.reference`, 30_encoding R9, R78). A row of at most 8 bits is an S row (a W word has at least 9 bits);
its padding bits above bit 3 must be 0. A W word is taken as ENV drives it, since ENV is the only issuer of a
W word that is not part of a micro-operation (log 7). -/
def decodeTableWord (nbits w : Nat) : Option Instr :=
  match decode Config.reference (if nbits ≤ 8 then .sequencer else .writePort .env) w with
  | .ok i => some i
  | .error _ => none

end Sys2Proof
end

