-- ==== Sys2Proof/Machine/State.lean ====
section
/-! DEFINITION. The state of the block (10_state R20), the harness's trace and sequence number (R34, R35), the
configuration it was built with (00_scope R12) and the host's coming inputs (70 R164); the reasons a step can stop;
the reset state (R41). The block has no memory beside its two registers (20_memory R66), so `dir` and `data` are the
whole address space. -/

namespace Sys2Proof.Machine

/-- `seq.state` (10_state R23). -/
inductive SeqState where
  | pinUnconfigured
  | pinHigh
  | pinLow
  deriving DecidableEq, Repr

/-- `seq.phase` (10_state R24): whether the assert write of this cycle has been issued. -/
inductive Phase where
  /-- 0, `PH_ASSERT`. -/
  | phAssert
  /-- 1, `PH_DELAY`. -/
  | phDelay
  deriving DecidableEq, Repr

/-- One record of the trace `T` (10_state R34). -/
structure Record where
  address : Nat
  value : Byte
  sequenceNumber : Nat
  deriving DecidableEq, Repr

/-- What the outside does at one clock edge (70 R164, 20_memory R65, 60 R130). -/
inductive Edge where
  /-- `rst = 0` and ENV silent: SEQ performs a micro-operation (70 R163). -/
  | run
  /-- `rst = 1`: a reset step (70 R151). -/
  | rst
  /-- An ENV step between two SEQ steps: ENV drives this W word (20_memory R65). -/
  | env (word : Nat)
  deriving DecidableEq, Repr

/-- The block, its configuration, the harness's records and the host's coming inputs. -/
structure State where
  /-- The configuration the block was built with; no step writes it (00_scope R12; log 1). -/
  cfg : Config
  /-- `DIR` (10_state R28). -/
  dir : Byte
  /-- `DATA` (10_state R29). -/
  data : Byte
  /-- `seq.state` (10_state R23). -/
  seqState : SeqState
  /-- `seq.phase` (10_state R24). -/
  seqPhase : Phase
  /-- `iter`, the elapsed iterations of the delay (10_state R26). -/
  iter : Nat
  /-- `T`, the harness's trace, oldest record first (10_state R34). -/
  trace : List Record
  /-- `seqno`, the number the next record carries (10_state R35). -/
  seqno : Nat
  /-- The MODEL's own field (log 5): what the outside does at the coming edges, next first; when the list is empty,
  `rst = 0` and ENV is silent from then on. -/
  edges : List Edge
  deriving DecidableEq, Repr

/-- The hardware has no fault: it raises no exception and cannot trap (60_exceptions R126). -/
inductive Fault where
  deriving DecidableEq, Repr

/-- Why the model gives no next state. Every one of these is SAFE: the model stops where the spec gives no behaviour. -/
inductive Refusal where
  /-- Raised by an arm of `exec` whose instruction has no meaning yet; none is left. Safe. -/
  | notModelled (mnemonic : String)
  /-- Raised by every operation, reset step and `build` of a machine whose configuration violates 00_scope R11: the
  hardware does not exist (log 11). `step` gives it where nothing else refuses the edge first. Safe. -/
  | illFormedConfig
  /-- Raised by `step` on a word that the decoder rejects: a reserved selection code (30_encoding R79) or an
  ENV word wider than `AW + 8` bits (R71). Safe. -/
  | undecodable (why : DecodeError)
  /-- Raised by a micro-operation run in a state that does not enable it, the `require` of 41 R101 and
  42 R109 to R112. Safe; `step` meets it only where `iter > DELAY_COUNT`, which no run reaches (10_state R38 (a)). -/
  | notEnabled (mnemonic : String)
  /-- Raised by `OUTB.UNMAPPED` on an address that is mapped or outside the space: no such operation (R93). Safe. -/
  | addressNotUnmapped
  /-- Raised by `step` where ENV is to write and `EXT_WRITERS = false`: there is no ENV (20_memory R65). Safe. -/
  | noExternalWriter
  deriving DecidableEq, Repr

/-- The reset values for a configuration (10_state R41, 70 R151). -/
def State.resetOf (c : Config) : State where
  cfg := c
  dir := c.dirReset
  data := c.dataReset
  seqState := .pinUnconfigured
  seqPhase := .phAssert
  iter := 0
  trace := []
  seqno := 0
  edges := []

/-- The machine right after reset: the reference scenario (log 2, 3). -/
def State.reset : State := State.resetOf Config.reference

/-- The three outcomes of this machine. -/
abbrev Result := Host.Outcome State Fault Refusal

end Sys2Proof.Machine
end

