-- ==== Sys2Proof/Machine/Flags.lean ====
section
/-! DEFINITION. There are no flags (10_state R27). The one condition is the comparator output `z`; with the codes of
`seq` it makes the selection word (30_encoding R72 to R74). -/

namespace Sys2Proof.Machine

/-- The comparator `z = (iter == DELAY_COUNT)`, on `iter` at the start of the step (30_encoding R73). -/
def comparator (s : State) : Bool := decide (s.iter = s.cfg.delayCount)

/-- The 2-bit code of `seq.state` (30_encoding R74). -/
def stateCode : SeqState → Nat
  | .pinUnconfigured => 0b00
  | .pinHigh => 0b01
  | .pinLow => 0b10

/-- The 1-bit code of `seq.phase` (30_encoding R74). -/
def phaseCode : Phase → Nat
  | .phAssert => 0
  | .phDelay => 1

/-- `sel[3:0] = z ++ seq.phase ++ code(seq.state)` (30_encoding R72). -/
def selectionWord (s : State) : Nat :=
  (comparator s).toNat * 8 + phaseCode s.seqPhase * 4 + stateCode s.seqState

end Sys2Proof.Machine
end

