-- ==== Sys2Proof/Machine/Operands.lean ====
section
/-! DEFINITION. The immediates SEQ supplies (30_encoding section 4): the mask, the constant 0, and the write that each
micro-operation puts on the write port (42_blink_controller R109 to R112). -/

namespace Sys2Proof.Machine

/-- `MASK = (zext_8(1) << LED_PIN)[7:0]` (30_encoding R75). -/
def mask (c : Config) : Byte := (1 : Byte) <<< c.ledPin

/-- The value of the deassert write (30_encoding R76): the whole register is cleared (42 R118). -/
def deassertValue : Byte := 0x00

/-- The `(wr_addr, wr_data)` SEQ drives in a micro-operation, none where `wr_en = 0` (10_state R36, R39).
An `OUTB` is no micro-operation of SEQ's, so SEQ drives nothing in one. -/
def sequencerWrite (c : Config) : Instr → Option (Nat × Byte)
  | .seqCfg => some (c.dirAddr, mask c)
  | .seqAssert => some (c.dataAddr, mask c)
  | .seqTick => none
  | .seqDeassert => some (c.dataAddr, deassertValue)
  | .seqLoop => some (c.dirAddr, mask c)
  | .outbDir _ _ | .outbData _ _ | .outbUnmapped _ _ _ => none

end Sys2Proof.Machine
end

