-- ==== Sys2Proof/Machine/Ops.lean ====
section
/-! DEFINITION. The named operations on the state, each a single-field update or a few of them, and the guards every
meaning goes through. The block takes no exception and returns from none (60_exceptions R126, R131, R132), so the one
event that abandons the sequence, the reset step, stands here in their place (70 R151). -/

namespace Sys2Proof.Machine

/-- Replace all 8 bits of `DIR` (40 R91, 20_memory R52). -/
def writeDir (value : Byte) (s : State) : State := { s with dir := value }

/-- Replace all 8 bits of `DATA` (40 R92, 20_memory R52). -/
def writeData (value : Byte) (s : State) : State := { s with data := value }

/-- Append one record to `T` and count it (10_state R34, R35). -/
def appendRecord (addr : Nat) (value : Byte) (s : State) : State :=
  { s with trace := s.trace ++ [⟨addr, value, s.seqno⟩], seqno := s.seqno + 1 }

/-- `seq <- (state, phase)` (10_state R22). -/
def setSeq (state : SeqState) (phase : Phase) (s : State) : State := { s with seqState := state, seqPhase := phase }

/-- `iter <- n` (10_state R26). -/
def setIter (n : Nat) (s : State) : State := { s with iter := n }

/-- The inputs that remain after an edge. -/
def setEdges (edges : List Edge) (s : State) : State := { s with edges := edges }

/-- The common part of every `OUTB` (40 R90): a record if SEQ is the issuer, nothing if ENV is (20_memory R65). -/
def recordWrite (issuer : Issuer) (addr : Nat) (value : Byte) (s : State) : State :=
  match issuer with
  | .seq => appendRecord addr value s
  | .env => s

/-- The register effect of a write (20_memory R46, R48; 30_encoding R77): the register its address maps to,
or nothing in this block. -/
def storeByte (addr : Nat) (value : Byte) (s : State) : State :=
  if addr = s.cfg.dirAddr then writeDir value s
  else if addr = s.cfg.dataAddr then writeData value s
  else s

/-- `OUTB addr, value`: the common part and then the register effect, in one step (40 R90). -/
def outb (issuer : Issuer) (addr : Nat) (value : Byte) (s : State) : State :=
  storeByte addr value (recordWrite issuer addr value s)

/-- `seq == (state, phase)`, the condition of a micro-operation (10_state R22). -/
abbrev State.AtSeq (s : State) (state : SeqState) (phase : Phase) : Prop := s.seqState = state ∧ s.seqPhase = phase

/-- The hardware exists only for a well-formed configuration (00_scope R11). -/
def whenBuilt (s : State) (k : Result) : Result :=
  if s.cfg.WellFormed then k else .refused .illFormedConfig

/-- `require` of a micro-operation's pseudocode (41 R101, 42 R109 to R112). DEDUCED (log 9): outside its condition
the micro-operation is not enabled and has no effect to give. -/
def require (enabled : Prop) [Decidable enabled] (mnemonic : String) (t : State) : Result :=
  if enabled then .next t else .refused (.notEnabled mnemonic)

/-- The reset step (70 R151): every element takes its reset value, the harness empties `T`, nothing is written.
The configuration stays (00_scope R12), and so do the inputs still to come, which are the outside's. -/
def resetStep (s : State) : Result :=
  whenBuilt s (.next (setEdges s.edges (State.resetOf s.cfg)))

/-- The host configures the hardware (70 R164): a well-formed instance at reset, or a refusal (00_scope R11). -/
def build (c : Config) : Result :=
  whenBuilt (State.resetOf c) (.next (State.resetOf c))

end Sys2Proof.Machine
end

