-- ==== Sys2Proof/Machine/BlinkController.lean ====
section
/-! DEFINITION. The blink controller family (42_blink_controller): the four micro-operations that write. -/

namespace Sys2Proof.Machine

/-- `SEQ.CFG` (R109): the first direction write of a run. -/
def execSeqCfg (s : State) : Result :=
  whenBuilt s
    (require (s.AtSeq .pinUnconfigured .phAssert) "SEQ.CFG"
      (setSeq .pinHigh .phAssert (outb .seq s.cfg.dirAddr (mask s.cfg) s)))

/-- `SEQ.ASSERT` (R110): the assert write; the delay starts from zero in the same step. -/
def execSeqAssert (s : State) : Result :=
  whenBuilt s
    (require (s.AtSeq .pinHigh .phAssert) "SEQ.ASSERT"
      (setSeq .pinHigh .phDelay (setIter 0 (outb .seq s.cfg.dataAddr (mask s.cfg) s))))

/-- `SEQ.DEASSERT` (R111): the deassert write, a whole-register clear (R118), when the delay has run its full count. -/
def execSeqDeassert (s : State) : Result :=
  whenBuilt s
    (require (s.AtSeq .pinHigh .phDelay ∧ s.iter = s.cfg.delayCount) "SEQ.DEASSERT"
      (setSeq .pinLow .phAssert (outb .seq s.cfg.dataAddr deassertValue s)))

/-- `SEQ.LOOP` (R112): the direction write of every later cycle and the unconditional loop-back. -/
def execSeqLoop (s : State) : Result :=
  whenBuilt s
    (require (s.AtSeq .pinLow .phAssert) "SEQ.LOOP"
      (setSeq .pinHigh .phAssert (outb .seq s.cfg.dirAddr (mask s.cfg) s)))

end Sys2Proof.Machine
end

