-- ==== Sys2Proof/Machine/Delay.lean ====
section
/-! DEFINITION. The delay family (41_delay). -/

namespace Sys2Proof.Machine

/-- `SEQ.TICK` (R101): one iteration of the delay; no write. -/
def execSeqTick (s : State) : Result :=
  whenBuilt s
    (require (s.AtSeq .pinHigh .phDelay ∧ s.iter < s.cfg.delayCount) "SEQ.TICK" (setIter (s.iter + 1) s))

end Sys2Proof.Machine
end

