-- ==== Sys2Proof/Machine/RegisterWrite.lean ====
section
/-! DEFINITION. The register write family (40_register_write): what REGIF does with a write transaction. Flags: none.
Exceptions: none, under any operands. -/

namespace Sys2Proof.Machine

/-- `OUTB.DIR value` (R91): the common part, then `DIR <- value`. -/
def execOutbDir (issuer : Issuer) (value : Byte) (s : State) : Result :=
  whenBuilt s (.next (writeDir value (recordWrite issuer s.cfg.dirAddr value s)))

/-- `OUTB.DATA value` (R92): the common part, then `DATA <- value`, stored whatever `DIR` holds. -/
def execOutbData (issuer : Issuer) (value : Byte) (s : State) : Result :=
  whenBuilt s (.next (writeData value (recordWrite issuer s.cfg.dataAddr value s)))

/-- `OUTB.UNMAPPED addr, value` (R93): the common part and nothing else. What the write does outside the block is
not modelled (20_memory R48; log 13). An address that is mapped or outside the space makes no such operation
(log 12). -/
def execOutbUnmapped (issuer : Issuer) (addr : Nat) (value : Byte) (s : State) : Result :=
  whenBuilt s
    (if s.cfg.Unmapped addr then .next (recordWrite issuer addr value s) else .refused .addressNotUnmapped)

end Sys2Proof.Machine
end

