-- ==== Sys2Proof/Machine/Dispatch.lean ====
section
/-! DEFINITION. One arm for each constructor of Instr, each a direct call of its meaning. -/

namespace Sys2Proof.Machine

def exec (i : Instr) (s : State) : Host.Outcome State Fault Refusal :=
  match i with
  | .outbDir issuer value => Sys2Proof.Machine.execOutbDir issuer value s
  | .outbData issuer value => Sys2Proof.Machine.execOutbData issuer value s
  | .outbUnmapped issuer addr value => Sys2Proof.Machine.execOutbUnmapped issuer addr value s
  | .seqCfg => Sys2Proof.Machine.execSeqCfg s
  | .seqAssert => Sys2Proof.Machine.execSeqAssert s
  | .seqTick => Sys2Proof.Machine.execSeqTick s
  | .seqDeassert => Sys2Proof.Machine.execSeqDeassert s
  | .seqLoop => Sys2Proof.Machine.execSeqLoop s

end Sys2Proof.Machine
end

