-- ==== Sys2Proof/Machine/Fetch.lean ====
section
/-! DEFINITION. What the next clock edge brings. The block fetches nothing from memory (10_state R22, 20_memory R62):
a SEQ step decodes the selection word of its own state (30_encoding R72), an ENV step the W word ENV drives
(20_memory R65), and a reset step decodes nothing (70 R151). -/

namespace Sys2Proof.Machine

/-- The event of one edge. In each, `t` is the state with that edge taken off the inputs. -/
inductive Fetched where
  /-- A reset step. -/
  | reset (t : State)
  /-- A word to decode at a place. -/
  | word (place : Place) (w : Nat) (t : State)
  /-- There is no such event on this hardware. -/
  | absent (why : Refusal)
  deriving DecidableEq, Repr

/-- The event of the next edge: reset has priority over the micro-operation of its edge (60 R130 (a)); ENV exists
only where `EXT_WRITERS = true` (20_memory R65). -/
def fetch (s : State) : Fetched :=
  match s.edges with
  | [] => .word .sequencer (selectionWord s) s
  | .run :: rest => .word .sequencer (selectionWord s) (setEdges rest s)
  | .rst :: rest => .reset (setEdges rest s)
  | .env w :: rest =>
    if s.cfg.extWriters then .word (.writePort .env) w (setEdges rest s) else .absent .noExternalWriter

/-- The selection word `sel` written into SEQ's state, as far as the state can hold it: the state and phase it names,
and `iter` moved only if `z` would differ. The codes with state `11` have no value of `seq.state`; the reserved pair
(`PIN_LOW`, `PH_DELAY`), which `step` refuses in the same way, stands for them and for a number wider than the word
(log 10, 22). -/
def loadSelection (sel : Nat) (s : State) : State :=
  let placed :=
    match sel % 4 with
    | 0 => setSeq .pinUnconfigured (if sel / 4 % 2 = 0 then .phAssert else .phDelay) s
    | 1 => setSeq .pinHigh (if sel / 4 % 2 = 0 then .phAssert else .phDelay) s
    | 2 => setSeq .pinLow (if sel / 4 % 2 = 0 then .phAssert else .phDelay) s
    | _ => setSeq .pinLow .phDelay s
  if 16 ≤ sel then setSeq .pinLow .phDelay s
  else if decide (sel / 8 % 2 = 1) = comparator s then placed
  else if sel / 8 % 2 = 1 then setIter s.cfg.delayCount placed
  else setIter (if s.cfg.delayCount = 0 then 1 else 0) placed

/-- The state whose very next edge decodes the word: a selection word (format S, at most 8 table bits) is put into
SEQ's state and the next edge is a SEQ step; a transaction word is what ENV drives at the next edge, with ENV present
(log 7). -/
def placeWord (nbits w : Nat) (s : State) : State :=
  if nbits ≤ 8 then setEdges (.run :: s.edges) (loadSelection w s)
  else setEdges (.env w :: s.edges) { s with cfg := { s.cfg with extWriters := true } }

end Sys2Proof.Machine
end

