-- ==== Sys2Proof/Machine/Step.lean ====
section
/-! DEFINITION. One step of the block is one clock edge (70 R163): a reset step, an ENV write, or the one
micro-operation the selection word selects. -/

namespace Sys2Proof.Machine

/-- One clock edge. -/
def step (s : State) : Host.Outcome State Fault Refusal :=
  match fetch s with
  | .reset t => resetStep t
  | .absent why => .refused why
  | .word place w t =>
    match decode t.cfg place w with
    | .ok i => exec i t
    | .error why => .refused (.undecodable why)

/-- `s` with the word placed where the next step decodes it (log 7). -/
def State.withFetchWord (s : State) (nbits w : Nat) : State := placeWord nbits w s

end Sys2Proof.Machine
end

