-- ==== Sys2Proof/Machine/Ports.lean ====
section
/-! DEFINITION. The block's outputs (10_state R31, R32, R36, R39): functions of the state and of the step about to be
taken, never state themselves. `clk` is the step and `rst` the edge of that name. -/

namespace Sys2Proof.Machine

/-- `pin_oe[7:0] = DIR` (10_state R31). -/
def pinOe (s : State) : Byte := s.dir

/-- `pin_out[7:0] = DATA` (10_state R31). -/
def pinOut (s : State) : Byte := s.data

/-- The level of pin `i`: `some` of its `DATA` bit when the block drives it, `none` when it does not; an undriven
pin has no level (10_state R32, decision D9). -/
def level (s : State) (i : Fin 8) : Option Bool :=
  if (pinOe s).getLsbD i then some ((pinOut s).getLsbD i) else none

/-- The micro-operation SEQ performs at the next edge, if the next edge is a SEQ step and the selection word is not
reserved (10_state R22, 30_encoding R72). -/
def sequencerOp (s : State) : Option Instr :=
  match fetch s with
  | .word .sequencer w t =>
    match decode t.cfg .sequencer w with
    | .ok i => some i
    | .error _ => none
  | .word (.writePort _) _ _ => none
  | .reset _ => none
  | .absent _ => none

/-- The trace tap of the coming step: `some (tr_addr, tr_data)` when `tr_valid = 1`, a copy of SEQ's write signals
(10_state R39). -/
def tap (s : State) : Option (Nat × Byte) :=
  match sequencerOp s with
  | some i => sequencerWrite s.cfg i
  | none => none

/-- `tr_valid` (10_state R39). -/
def trValid (s : State) : Bool := (tap s).isSome

/-- What REGIF's one write port carries at the next edge, `(wr_addr, wr_data)` when `wr_en = 1` (10_state R36):
SEQ's write in a SEQ step, the word ENV drives in an ENV step (20_memory R65), nothing in a reset step (70 R151). -/
def portWrite (s : State) : Option (Nat × Byte) :=
  match fetch s with
  | .word .sequencer _ _ => tap s
  | .word (.writePort _) w _ => some (wordAddr w, wordValue w)
  | .reset _ => none
  | .absent _ => none

end Sys2Proof.Machine
end

