-- ==== Sys2Proof/Machine/Pseudo.lean ====
section
/-! DEFINITION. The pseudo-operations of 30_encoding R83 as lists of operations, and running such a list. `OUTB` needs
no list: it is whichever of the three the decoder gives for its word (R83 (a)). -/

namespace Sys2Proof.Machine

/-- `SPIN_DELAY n`: `n` consecutive ticks (30_encoding R83 (b), 41 R100). -/
def spinDelay (n : Nat) : List Instr := List.replicate n .seqTick

/-- `T2`, the source's transition 2 (30_encoding R83 (c)). -/
def transition2 (c : Config) : List Instr := .seqAssert :: (spinDelay c.delayCount ++ [.seqDeassert])

/-- `BLINK_CYCLE` number `k` of a run: `SEQ.CFG` in cycle 0 and `SEQ.LOOP` in every later one, then `T2`
(30_encoding R83 (d)). -/
def blinkCycle (c : Config) (k : Nat) : List Instr := (if k = 0 then .seqCfg else .seqLoop) :: transition2 c

/-- The operations of a list one after another, stopping where one stops. -/
def execList : List Instr → State → Result
  | [], s => .next s
  | i :: rest, s =>
    match exec i s with
    | .next t => execList rest t
    | .fault r => .fault r
    | .refused r => .refused r

end Sys2Proof.Machine
end

