-- ==== Sys2Proof/Safety.lean ====
section
/-! DEFINITION. What counts as a safe run, in the terms the statements use: the invariants of 10_state R38, the trace and
the states that 42_blink_controller R121 gives in closed form, and the writes a register is held against (20_memory R59). -/

namespace Sys2Proof.Safety

open Sys2Proof.Machine

/-- `n` clock edges of the block, stopping where a step stops. -/
def runFor : Nat → State → Result
  | 0, s => .next s
  | n + 1, s =>
    match step s with
    | .next t => runFor n t
    | .fault r => .fault r
    | .refused r => .refused r

/-- The five micro-operations of SEQ (30_encoding R70). -/
def microOps : List Instr := [.seqCfg, .seqAssert, .seqTick, .seqDeassert, .seqLoop]

/-- `seq` is one of the four pairs of 10_state R38 (b): the phase is 0 whenever the state is not `PIN_HIGH` (R24). -/
def LegalSeq (s : State) : Prop := s.seqPhase = .phDelay → s.seqState = .pinHigh

/-- Record `j` of `T` (42 R121). -/
def traceRecord (c : Config) (j : Nat) : Record :=
  if j % 3 = 0 then ⟨c.dirAddr, mask c, j⟩
  else if j % 3 = 1 then ⟨c.dataAddr, mask c, j⟩
  else ⟨c.dataAddr, 0x00, j⟩

/-- The first `n` records of `T` (42 R121). -/
def controllerTrace (c : Config) (n : Nat) : List Record := (List.range n).map (traceRecord c)

/-- How many records a cycle has made so far at each place of the sequence (10_state R38 (f)). -/
def recordsThisCycle : SeqState → Phase → Nat
  | .pinUnconfigured, _ => 0
  | .pinLow, _ => 0
  | .pinHigh, .phAssert => 1
  | .pinHigh, .phDelay => 2

/-- The invariant of the open system: 10_state R38 (a), (b), (e), (f), which hold whatever ENV does, and that the
records are those of R121. -/
structure OpenInv (s : State) : Prop where
  built : s.cfg.WellFormed
  iterBound : s.iter ≤ s.cfg.delayCount
  legal : LegalSeq s
  numbered : s.seqno = s.trace.length
  recorded : s.trace = controllerTrace s.cfg s.trace.length
  placed : s.trace.length % 3 = recordsThisCycle s.seqState s.seqPhase

/-- The invariant of the closed system: all of 10_state R38. "Until the first `SEQ.ASSERT` of the run" is said by the
trace having fewer than two records. -/
structure ClosedInv (s : State) : Prop extends OpenInv s where
  closed : s.cfg.extWriters = false
  direction : s.dir = if s.seqState = .pinUnconfigured then s.cfg.dirReset else mask s.cfg
  level : s.data = if s.trace.length < 2 then s.cfg.dataReset
    else if s.seqState = .pinHigh ∧ s.seqPhase = .phDelay then mask s.cfg else 0x00

/-- The value of the latest record with this address, or the reset value if there is none (20_memory R59 (a)). -/
def latestWrite (trace : List Record) (addr : Nat) (resetValue : Byte) : Byte :=
  trace.foldl (fun v r => if r.address = addr then r.value else v) resetValue

/-- The state after `n` SEQ steps from reset, in the closed form of 42 R121. -/
def stateAfter (c : Config) (n : Nat) : State :=
  let k := n / (c.delayCount + 3)
  let r := n % (c.delayCount + 3)
  if n = 0 then State.resetOf c
  else if r = 0 then
    { State.resetOf c with
      seqState := .pinLow, seqPhase := .phAssert, iter := c.delayCount, dir := mask c, data := 0x00,
      trace := controllerTrace c (3 * k), seqno := 3 * k }
  else if r = 1 then
    { State.resetOf c with
      seqState := .pinHigh, seqPhase := .phAssert, iter := if k = 0 then 0 else c.delayCount, dir := mask c,
      data := if k = 0 then c.dataReset else 0x00, trace := controllerTrace c (3 * k + 1), seqno := 3 * k + 1 }
  else
    { State.resetOf c with
      seqState := .pinHigh, seqPhase := .phDelay, iter := r - 2, dir := mask c, data := mask c,
      trace := controllerTrace c (3 * k + 2), seqno := 3 * k + 2 }

/-- The micro-operation of step `n + 1` of a run (42 R121). -/
def opAfter (c : Config) (n : Nat) : Instr :=
  let r := n % (c.delayCount + 3)
  if n = 0 then .seqCfg
  else if r = 0 then .seqLoop
  else if r = 1 then .seqAssert
  else if r = c.delayCount + 2 then .seqDeassert
  else .seqTick

/-- An input the hardware can meet: any edge but an ENV write where there is no ENV, or one wider than a W word
(20_memory R65, 30_encoding R71). -/
def possibleEdge (c : Config) : Edge → Bool
  | .run => true
  | .rst => true
  | .env w => c.extWriters && decide (w < 2 ^ (c.aw + 8))

/-- How many of the edges are SEQ steps. -/
def sequencerSteps (edges : List Edge) : Nat := edges.countP (· == .run)

end Sys2Proof.Safety
end

