-- ==== Sys2Proof/Certificates/Slice0/Obligations.lean ====
section
/-! DEFINITION. The statements for the provers, from the numbered rules of spec/. Unless a docstring says otherwise a
statement holds for EVERY configuration (the configuration is a field of the state), so nothing rests on the values
`Config.reference` names (log 2, 3). -/

open Sys2Proof Sys2Proof.Machine Sys2Proof.Safety

/-! ### Words: 30_encoding -/

/-- 30_encoding R71: format W is `AW + 8` bits, the address in the high `AW`, the value in the low 8; the reference
scenario's three writes are the words `0x0420`, `0x0520`, `0x0500`. -/
def Obligations.WriteWordIsAddressThenValue : Prop :=
  (∀ (c : Config) (a : Nat) (v : Byte), a < 2 ^ c.aw →
    transactionWord a v < 2 ^ (c.aw + 8) ∧ wordAddr (transactionWord a v) = a ∧ wordValue (transactionWord a v) = v) ∧
  (∀ (w : Nat), transactionWord (wordAddr w) (wordValue w) = w) ∧
  (∀ iss : Issuer, encode Config.reference (.outbDir iss 0x20) = 0x0420 ∧
    encode Config.reference (.outbData iss 0x20) = 0x0520 ∧ encode Config.reference (.outbData iss 0x00) = 0x0500)

/-- 30_encoding R77: every one of the `2^(AW+8)` W words decodes to exactly one operation, by comparing the address
with `DIR_ADDR`, then with `DATA_ADDR`; the value takes no part. That a wider number is rejected as no transaction word
is the model's choice (log 22) and no part of R77. -/
def Obligations.WriteWordDecodesByAddressPriority : Prop :=
  ∀ (c : Config) (iss : Issuer) (w : Nat), c.WellFormed →
    decode c (.writePort iss) w =
      if w < 2 ^ (c.aw + 8) then
        if w / 256 = c.dirAddr then .ok (.outbDir iss (BitVec.ofNat 8 w))
        else if w / 256 = c.dataAddr then .ok (.outbData iss (BitVec.ofNat 8 w))
        else .ok (.outbUnmapped iss (w / 256) (BitVec.ofNat 8 w))
      else .error .notATransactionWord

/-- 30_encoding R78: the eight rows of the operation map by match and mask, the W rows in priority order for the
reference scenario, the S rows for every configuration; and the selection word of a state selects the row of its
`seq` and `z`. -/
def Obligations.OperationMapRowsDecode : Prop :=
  (∀ (iss : Issuer) (w : Nat), w < 2 ^ 16 →
    decode Config.reference (.writePort iss) w =
      if w &&& 0xFF00 = 0x0400 then .ok (.outbDir iss (BitVec.ofNat 8 w))
      else if w &&& 0xFF00 = 0x0500 then .ok (.outbData iss (BitVec.ofNat 8 w))
      else .ok (.outbUnmapped iss (w / 256) (BitVec.ofNat 8 w))) ∧
  (∀ (c : Config) (w : Nat), w < 16 →
    (w &&& 0x7 = 0x0 → decode c .sequencer w = .ok .seqCfg) ∧
    (w &&& 0x7 = 0x1 → decode c .sequencer w = .ok .seqAssert) ∧
    (w &&& 0xF = 0x5 → decode c .sequencer w = .ok .seqTick) ∧
    (w &&& 0xF = 0xD → decode c .sequencer w = .ok .seqDeassert) ∧
    (w &&& 0x7 = 0x2 → decode c .sequencer w = .ok .seqLoop)) ∧
  (∀ s : State, LegalSeq s →
    decode s.cfg .sequencer (selectionWord s) = .ok (match s.seqState, s.seqPhase with
      | .pinUnconfigured, _ => .seqCfg
      | .pinHigh, .phAssert => .seqAssert
      | .pinHigh, .phDelay => if s.iter = s.cfg.delayCount then .seqDeassert else .seqTick
      | .pinLow, _ => .seqLoop))

/-- 30_encoding R72, R73, R74: the selection word is `z ++ seq.phase ++ code(seq.state)`, with `z` the comparison of
`iter` with `DELAY_COUNT`, the state codes 0, 1, 2 and the phase codes 0, 1. -/
def Obligations.SelectionWordIsComparatorPhaseState : Prop :=
  ∀ s : State, selectionWord s =
    (if s.iter = s.cfg.delayCount then 8 else 0) +
    (match s.seqPhase with | .phAssert => 0 | .phDelay => 4) +
    (match s.seqState with | .pinUnconfigured => 0 | .pinHigh => 1 | .pinLow => 2)

/-- 30_encoding R79: the reserved codes select no micro-operation, whatever `z` is; a state that holds one is refused
by `step` and drives no write; no run reaches one, since reset is legal and every step keeps `seq` legal. -/
def Obligations.ReservedSelectionIsRefused : Prop :=
  (∀ (c : Config) (w : Nat), w < 16 → w % 8 ∈ [0b011, 0b100, 0b110, 0b111] →
    decode c .sequencer w = .error .reservedSelection) ∧
  (∀ s : State, s.edges = [] → ¬ LegalSeq s →
    step s = .refused (.undecodable .reservedSelection) ∧ portWrite s = none) ∧
  (∀ c : Config, LegalSeq (State.resetOf c)) ∧
  (∀ s t : State, LegalSeq s → step s = .next t → LegalSeq t)

/-- Decode and encode agree, for all operations and configurations: a well-formed operation's word, where it stands,
decodes to it with every operand. The issuer of an `OUTB` comes back through the place, since it is no bit of the
word (log 6). -/
def Obligations.DecodeOfEncodeIsTheOperation : Prop :=
  ∀ (c : Config) (i : Instr), c.WellFormed → i.wellFormed c = true → decode c (placeOf i) (encode c i) = .ok i

/-- The other direction for format W: an operation decoded from a word is well formed, stands where the word stood,
and encodes to that word, so no two words are one operation. -/
def Obligations.EncodeOfDecodedWriteIsTheWord : Prop :=
  ∀ (c : Config) (iss : Issuer) (w : Nat) (i : Instr), decode c (.writePort iss) w = .ok i →
    i.wellFormed c = true ∧ placeOf i = .writePort iss ∧ encode c i = w

/-- Words written out from the encoding tables (95_test_vectors 2.2, 2.3) decode to the operations they stand for. -/
def Obligations.SampleWordsDecode : Prop :=
  decodeTableWord 16 0b0000010000100000 = some (.outbDir .env 0x20) ∧
  decodeTableWord 16 0b0000010111111111 = some (.outbData .env 0xFF) ∧
  decodeTableWord 16 0b0010000000000100 = some (.outbUnmapped .env 0x20 0x04) ∧
  decodeTableWord 8 0b1000 = some .seqCfg ∧ decodeTableWord 8 0b1001 = some .seqAssert ∧
  decodeTableWord 8 0b0101 = some .seqTick ∧ decodeTableWord 8 0b1101 = some .seqDeassert ∧
  decodeTableWord 8 0b1010 = some .seqLoop ∧ decodeTableWord 8 0b0111 = none

/-- A step runs the decoded operation: with no input, or a `run` edge, `step` is `exec` of what the selection word
decodes to; with an ENV edge, where ENV exists, `exec` of what its W word decodes to. The edge is taken off the
inputs, which is all `step` adds (the list of inputs is the model's own field, log 5). -/
def Obligations.StepRunsTheDecodedOperation : Prop :=
  ∀ (s : State) (i : Instr),
    (s.edges = [] → decode s.cfg .sequencer (selectionWord s) = .ok i → step s = exec i s) ∧
    (∀ rest, s.edges = .run :: rest → decode s.cfg .sequencer (selectionWord s) = .ok i →
      step s = exec i { s with edges := rest }) ∧
    (∀ w rest, s.edges = .env w :: rest → s.cfg.extWriters = true → decode s.cfg (.writePort .env) w = .ok i →
      step s = exec i { s with edges := rest })

/-! ### Immediates: 30_encoding R75 -/

/-- 30_encoding R75: `MASK` has exactly one bit set, bit `LED_PIN`. -/
def Obligations.MaskIsTheLedPinBit : Prop :=
  ∀ c : Config, c.ledPin < 8 → (mask c).toNat = 2 ^ c.ledPin ∧ ∀ k, (mask c).getLsbD k = decide (k = c.ledPin)

/-! ### The register write family: 40_register_write -/

/-- 40 R90: every `OUTB addr, value` of the address space decodes and executes; it appends one record and counts it if
SEQ is the issuer and nothing if ENV is; it stores the value in the register its address maps to, if any; it changes
nothing else. -/
def Obligations.OutbIsOneRecordAndOneRegister : Prop :=
  ∀ (s : State) (iss : Issuer) (a : Nat) (v : Byte), s.cfg.WellFormed → a < 2 ^ s.cfg.aw →
    ∃ i t, decode s.cfg (.writePort iss) (a * 256 + v.toNat) = .ok i ∧ exec i s = .next t ∧
      t.trace = (match iss with | .seq => s.trace ++ [⟨a, v, s.seqno⟩] | .env => s.trace) ∧
      t.seqno = (match iss with | .seq => s.seqno + 1 | .env => s.seqno) ∧
      t.dir = (if a = s.cfg.dirAddr then v else s.dir) ∧
      t.data = (if a = s.cfg.dataAddr then v else s.data) ∧
      t.seqState = s.seqState ∧ t.seqPhase = s.seqPhase ∧ t.iter = s.iter ∧ t.cfg = s.cfg ∧ t.edges = s.edges

/-- 40 R91: `OUTB.DIR value` completes; all 8 bits of `DIR` are replaced, nothing else but the record changes, and in
the same step pin `i` is driven with its stored `DATA` bit where `value[i] = 1` and undriven where it is 0. -/
def Obligations.OutbDirReplacesDirection : Prop :=
  ∀ (s : State) (iss : Issuer) (v : Byte), s.cfg.WellFormed →
    decode s.cfg (.writePort iss) (s.cfg.dirAddr * 256 + v.toNat) = .ok (.outbDir iss v) ∧
    ∃ t, exec (.outbDir iss v) s = .next t ∧
      t = (match iss with
        | .seq => { s with dir := v, trace := s.trace ++ [⟨s.cfg.dirAddr, v, s.seqno⟩], seqno := s.seqno + 1 }
        | .env => { s with dir := v }) ∧
      ∀ i : Fin 8, level t i = if v.getLsbD i then some (s.data.getLsbD i) else none

/-- 40 R92: `OUTB.DATA value` completes; all 8 bits of `DATA` are replaced whatever `DIR` holds, nothing else but the
record changes, and in the same step each output pin is driven to its bit of `value`; the other pins stay undriven. -/
def Obligations.OutbDataReplacesLevels : Prop :=
  ∀ (s : State) (iss : Issuer) (v : Byte), s.cfg.WellFormed →
    decode s.cfg (.writePort iss) (s.cfg.dataAddr * 256 + v.toNat) = .ok (.outbData iss v) ∧
    ∃ t, exec (.outbData iss v) s = .next t ∧
      t = (match iss with
        | .seq => { s with data := v, trace := s.trace ++ [⟨s.cfg.dataAddr, v, s.seqno⟩], seqno := s.seqno + 1 }
        | .env => { s with data := v }) ∧
      ∀ i : Fin 8, level t i = if s.dir.getLsbD i then some (v.getLsbD i) else none

/-- 40 R93: `OUTB.UNMAPPED addr, value` completes at every address that is neither register, adjacent ones included;
no state of the block and no pin changes; a record is appended only if SEQ is the issuer. -/
def Obligations.OutbUnmappedChangesNoRegister : Prop :=
  ∀ (s : State) (iss : Issuer) (a : Nat) (v : Byte), s.cfg.WellFormed →
    a < 2 ^ s.cfg.aw → a ≠ s.cfg.dirAddr → a ≠ s.cfg.dataAddr →
    decode s.cfg (.writePort iss) (a * 256 + v.toNat) = .ok (.outbUnmapped iss a v) ∧
    ∃ t, exec (.outbUnmapped iss a v) s = .next t ∧
      t = (match iss with
        | .seq => { s with trace := s.trace ++ [⟨a, v, s.seqno⟩], seqno := s.seqno + 1 }
        | .env => s) ∧
      ∀ i : Fin 8, level t i = level s i

/-- Frame of the register write family (40 R91 to R93): whatever else, `seq`, `iter`, the configuration and the inputs
are unchanged; `DIR` is unchanged by the two that do not write it and `DATA` by the two that do not; an ENV write
leaves the trace and `seqno`. -/
def Obligations.RegisterWriteFrame : Prop :=
  ∀ (i : Instr) (s t : State), exec i s = .next t →
    match i with
    | .outbDir iss _ => t.data = s.data ∧ t.seqState = s.seqState ∧ t.seqPhase = s.seqPhase ∧ t.iter = s.iter ∧
        t.cfg = s.cfg ∧ t.edges = s.edges ∧ (iss = .env → t.trace = s.trace ∧ t.seqno = s.seqno)
    | .outbData iss _ => t.dir = s.dir ∧ t.seqState = s.seqState ∧ t.seqPhase = s.seqPhase ∧ t.iter = s.iter ∧
        t.cfg = s.cfg ∧ t.edges = s.edges ∧ (iss = .env → t.trace = s.trace ∧ t.seqno = s.seqno)
    | .outbUnmapped iss _ _ => t.dir = s.dir ∧ t.data = s.data ∧ t.seqState = s.seqState ∧
        t.seqPhase = s.seqPhase ∧ t.iter = s.iter ∧ t.cfg = s.cfg ∧ t.edges = s.edges ∧
        (iss = .env → t.trace = s.trace ∧ t.seqno = s.seqno)
    | .seqCfg | .seqAssert | .seqTick | .seqDeassert | .seqLoop => True

/-- 20_memory R55: writing to a register the value it already holds leaves `DIR` and `DATA` as they are and is still
an event with its own record; so is the direction write of `SEQ.LOOP` where `DIR` already holds `MASK`. -/
def Obligations.RewritingTheSameValueIsAnEvent : Prop :=
  ∀ s : State, s.cfg.WellFormed →
    exec (.outbDir .seq s.dir) s =
      .next { s with trace := s.trace ++ [⟨s.cfg.dirAddr, s.dir, s.seqno⟩], seqno := s.seqno + 1 } ∧
    exec (.outbData .seq s.data) s =
      .next { s with trace := s.trace ++ [⟨s.cfg.dataAddr, s.data, s.seqno⟩], seqno := s.seqno + 1 } ∧
    (s.seqState = .pinLow → s.seqPhase = .phAssert → s.dir = mask s.cfg →
      exec .seqLoop s = .next { s with
        seqState := .pinHigh, trace := s.trace ++ [⟨s.cfg.dirAddr, s.dir, s.seqno⟩], seqno := s.seqno + 1 })

/-! ### The delay family: 41_delay -/

/-- 41 R101: where `seq` is (`PIN_HIGH`, 1) and `iter < DELAY_COUNT`, the selection word is `0101`, `SEQ.TICK` is what
it decodes to, and it adds 1 to `iter` (still at most `DELAY_COUNT`, below `2^CW`) and changes nothing else; nothing
is written. -/
def Obligations.SeqTickCountsOneIteration : Prop :=
  ∀ s : State, s.cfg.WellFormed → s.seqState = .pinHigh → s.seqPhase = .phDelay → s.iter < s.cfg.delayCount →
    selectionWord s = 0b0101 ∧ decode s.cfg .sequencer 0b0101 = .ok .seqTick ∧
    exec .seqTick s = .next { s with iter := s.iter + 1 } ∧
    s.iter + 1 ≤ s.cfg.delayCount ∧ s.iter + 1 < 2 ^ s.cfg.cw ∧ (s.edges = [] → trValid s = false)

/-- 41 R100: `SPIN_DELAY n`, entered with `iter = 0`, is `n` SEQ steps that leave `iter = n` and everything else, pins
and trace included, unchanged; after `n = DELAY_COUNT` of them the next operation is `SEQ.DEASSERT`; `SEQ.ASSERT`
guarantees the entry with `iter = 0`. -/
def Obligations.SpinDelayOnlyCounts : Prop :=
  (∀ (s : State) (n : Nat), s.cfg.WellFormed → s.edges = [] → s.seqState = .pinHigh → s.seqPhase = .phDelay →
    s.iter = 0 → n ≤ s.cfg.delayCount →
    runFor n s = .next { s with iter := n } ∧ execList (spinDelay n) s = .next { s with iter := n } ∧
    (n = s.cfg.delayCount → sequencerOp { s with iter := n } = some .seqDeassert)) ∧
  (∀ s t : State, exec .seqAssert s = .next t → t.seqState = .pinHigh ∧ t.seqPhase = .phDelay ∧ t.iter = 0)

/-- 41 section 3 (the spec derives this rule from R101, R110 and R111): between the assert and the deassert of one
cycle there are exactly `DELAY_COUNT` steps, every one a `SEQ.TICK`; with `DELAY_COUNT = 0` there is none. -/
def Obligations.DelayIsExactlyDelayCountTicks : Prop :=
  ∀ s t : State, s.edges = [] → exec .seqAssert s = .next t →
    (∀ k, k < s.cfg.delayCount → ∃ u, runFor k t = .next u ∧ sequencerOp u = some .seqTick) ∧
    ∃ u, runFor s.cfg.delayCount t = .next u ∧ sequencerOp u = some .seqDeassert

/-- 41 R105: nothing but reset ends a delay early: a step taken while the delay is running is a reset step, an ENV
write, which leaves `iter` and `seq`, or a tick. -/
def Obligations.OnlyResetCutsADelay : Prop :=
  ∀ s t : State, s.seqState = .pinHigh → s.seqPhase = .phDelay → s.iter < s.cfg.delayCount → step s = .next t →
    (∃ rest, s.edges = .rst :: rest) ∨
    (t.seqState = .pinHigh ∧ t.seqPhase = .phDelay ∧
      ((∃ w rest, s.edges = .env w :: rest ∧ t.iter = s.iter) ∨
       ((s.edges = [] ∨ ∃ rest, s.edges = .run :: rest) ∧ t.iter = s.iter + 1)))

/-! ### The blink controller family: 42_blink_controller -/

/-- 42 R109: in (`PIN_UNCONFIGURED`, 0), whatever `z` is, the selection word selects `SEQ.CFG`, which writes `MASK` to
`DIR` with one record and goes to (`PIN_HIGH`, 0); `DATA` and `iter` are unchanged. It is performed only as the first
step of a run: no step but a reset step leads back to `PIN_UNCONFIGURED`. -/
def Obligations.SeqCfgConfiguresTheDirection : Prop :=
  (∀ s : State, s.cfg.WellFormed → s.seqState = .pinUnconfigured → s.seqPhase = .phAssert →
    decode s.cfg .sequencer (selectionWord s) = .ok .seqCfg ∧
    exec .seqCfg s = .next { s with
      dir := (1 : Byte) <<< s.cfg.ledPin, seqState := .pinHigh, seqPhase := .phAssert,
      trace := s.trace ++ [⟨s.cfg.dirAddr, (1 : Byte) <<< s.cfg.ledPin, s.seqno⟩], seqno := s.seqno + 1 }) ∧
  (∀ s t : State, step s = .next t → t.seqState = .pinUnconfigured →
    (∃ rest, s.edges = .rst :: rest) ∨ (s.seqState = .pinUnconfigured ∧ ∃ w rest, s.edges = .env w :: rest))

/-- 42 R110: in (`PIN_HIGH`, 0), whatever `z` is, the selection word selects `SEQ.ASSERT`, which writes `MASK` to
`DATA` with one record, sets `iter` to 0 and goes to (`PIN_HIGH`, 1), all in one step; `DIR` is unchanged. -/
def Obligations.SeqAssertDrivesTheLevel : Prop :=
  ∀ s : State, s.cfg.WellFormed → s.seqState = .pinHigh → s.seqPhase = .phAssert →
    decode s.cfg .sequencer (selectionWord s) = .ok .seqAssert ∧
    exec .seqAssert s = .next { s with
      data := (1 : Byte) <<< s.cfg.ledPin, iter := 0, seqState := .pinHigh, seqPhase := .phDelay,
      trace := s.trace ++ [⟨s.cfg.dataAddr, (1 : Byte) <<< s.cfg.ledPin, s.seqno⟩], seqno := s.seqno + 1 }

/-- 42 R111: in (`PIN_HIGH`, 1) with `iter == DELAY_COUNT` the selection word is `1101`, `SEQ.DEASSERT`, which writes
the constant `0x00` to all of `DATA` with one record, whatever `DATA` held, and goes to (`PIN_LOW`, 0); `iter` and
`DIR` are unchanged. -/
def Obligations.SeqDeassertClearsTheLevels : Prop :=
  ∀ s : State, s.cfg.WellFormed → s.seqState = .pinHigh → s.seqPhase = .phDelay → s.iter = s.cfg.delayCount →
    selectionWord s = 0b1101 ∧ decode s.cfg .sequencer 0b1101 = .ok .seqDeassert ∧
    exec .seqDeassert s = .next { s with
      data := 0x00, seqState := .pinLow, seqPhase := .phAssert,
      trace := s.trace ++ [⟨s.cfg.dataAddr, 0x00, s.seqno⟩], seqno := s.seqno + 1 }

/-- 42 R112: in (`PIN_LOW`, 0), whatever `z` is, the selection word selects `SEQ.LOOP`, which writes `MASK` to `DIR`
with one record and goes unconditionally to (`PIN_HIGH`, 0); `iter` and `DATA` are unchanged. -/
def Obligations.SeqLoopRepeatsTheDirectionWrite : Prop :=
  ∀ s : State, s.cfg.WellFormed → s.seqState = .pinLow → s.seqPhase = .phAssert →
    decode s.cfg .sequencer (selectionWord s) = .ok .seqLoop ∧
    exec .seqLoop s = .next { s with
      dir := (1 : Byte) <<< s.cfg.ledPin, seqState := .pinHigh, seqPhase := .phAssert,
      trace := s.trace ++ [⟨s.cfg.dirAddr, (1 : Byte) <<< s.cfg.ledPin, s.seqno⟩], seqno := s.seqno + 1 }

/-- Frame of the micro-operations (41 R101, 42 R109 to R112): the configuration and the inputs are unchanged by all
five; `DIR` by the three that do not write it, `DATA` likewise, `iter` by all but `SEQ.ASSERT` and `SEQ.TICK`; a tick
leaves `seq`, the trace and `seqno`, and the others only append to the trace. -/
def Obligations.MicroOperationFrame : Prop :=
  ∀ (i : Instr) (s t : State), i ∈ microOps → exec i s = .next t →
    t.cfg = s.cfg ∧ t.edges = s.edges ∧
    (i ≠ .seqCfg → i ≠ .seqLoop → t.dir = s.dir) ∧
    (i ≠ .seqAssert → i ≠ .seqDeassert → t.data = s.data) ∧
    (i ≠ .seqAssert → i ≠ .seqTick → t.iter = s.iter) ∧
    (i = .seqTick → t.seqState = s.seqState ∧ t.seqPhase = s.seqPhase ∧ t.trace = s.trace ∧ t.seqno = s.seqno) ∧
    (i ≠ .seqTick → ∃ r : Record, r.sequenceNumber = s.seqno ∧ t.trace = s.trace ++ [r] ∧ t.seqno = s.seqno + 1)

/-- 10_state R22: `seq` before and after each micro-operation, the whole control flow of the hardware. -/
def Obligations.SequencerAdvanceTable : Prop :=
  ∀ (i : Instr) (s t : State), exec i s = .next t →
    match i with
    | .seqCfg => (s.seqState, s.seqPhase) = (.pinUnconfigured, .phAssert) ∧ (t.seqState, t.seqPhase) = (.pinHigh, .phAssert)
    | .seqAssert => (s.seqState, s.seqPhase) = (.pinHigh, .phAssert) ∧ (t.seqState, t.seqPhase) = (.pinHigh, .phDelay)
    | .seqTick => (s.seqState, s.seqPhase) = (.pinHigh, .phDelay) ∧ comparator s = false ∧
        (t.seqState, t.seqPhase) = (.pinHigh, .phDelay)
    | .seqDeassert => (s.seqState, s.seqPhase) = (.pinHigh, .phDelay) ∧ comparator s = true ∧
        (t.seqState, t.seqPhase) = (.pinLow, .phAssert)
    | .seqLoop => (s.seqState, s.seqPhase) = (.pinLow, .phAssert) ∧ (t.seqState, t.seqPhase) = (.pinHigh, .phAssert)
    | .outbDir _ _ | .outbData _ _ | .outbUnmapped _ _ _ => (t.seqState, t.seqPhase) = (s.seqState, s.seqPhase)

/-- 10_state R26: `iter` is set to 0 by `SEQ.ASSERT`, incremented by each `SEQ.TICK`, and unchanged by every other
operation, the writes included: it is not reachable by any write; `SEQ.DEASSERT` leaves it at `DELAY_COUNT`; it fits
in `CW` bits; the pins do not show it. -/
def Obligations.IterOnlyAssertAndTick : Prop :=
  (∀ (i : Instr) (s t : State), exec i s = .next t →
    t.iter = match i with
      | .seqAssert => 0
      | .seqTick => s.iter + 1
      | .seqCfg | .seqDeassert | .seqLoop | .outbDir _ _ | .outbData _ _ | .outbUnmapped _ _ _ => s.iter) ∧
  (∀ s t : State, exec .seqDeassert s = .next t → t.iter = s.cfg.delayCount) ∧
  (∀ s : State, OpenInv s → s.iter < 2 ^ s.cfg.cw) ∧
  (∀ (s : State) (n : Nat) (p : Fin 8), level { s with iter := n } p = level s p)

/-- Where a micro-operation's `require` does not hold it is refused by name and nothing happens, and so is an
`OUTB.UNMAPPED` on an address that is mapped or outside the space. The refusals are the model's (log 9, 12): the spec
gives those cases no effect. -/
def Obligations.OperationsOutsideTheirConditionAreRefused : Prop :=
  ∀ s : State, s.cfg.WellFormed →
    (¬ (s.seqState = .pinUnconfigured ∧ s.seqPhase = .phAssert) → exec .seqCfg s = .refused (.notEnabled "SEQ.CFG")) ∧
    (¬ (s.seqState = .pinHigh ∧ s.seqPhase = .phAssert) → exec .seqAssert s = .refused (.notEnabled "SEQ.ASSERT")) ∧
    (¬ ((s.seqState = .pinHigh ∧ s.seqPhase = .phDelay) ∧ s.iter < s.cfg.delayCount) →
      exec .seqTick s = .refused (.notEnabled "SEQ.TICK")) ∧
    (¬ ((s.seqState = .pinHigh ∧ s.seqPhase = .phDelay) ∧ s.iter = s.cfg.delayCount) →
      exec .seqDeassert s = .refused (.notEnabled "SEQ.DEASSERT")) ∧
    (¬ (s.seqState = .pinLow ∧ s.seqPhase = .phAssert) → exec .seqLoop s = .refused (.notEnabled "SEQ.LOOP")) ∧
    (∀ iss a v, (2 ^ s.cfg.aw ≤ a ∨ a = s.cfg.dirAddr ∨ a = s.cfg.dataAddr) →
      exec (.outbUnmapped iss a v) s = .refused .addressNotUnmapped)

/-- 30_encoding section 7 (containment, which the spec derives): a micro-operation that writes is the `OUTB` it
contains, decoded from its own W word and executed, followed by SEQ's own update of `seq` and `iter`. -/
def Obligations.MicroOperationContainsItsOutb : Prop :=
  ∀ (i : Instr) (s t : State) (a : Nat) (v : Byte), exec i s = .next t → sequencerWrite s.cfg i = some (a, v) →
    ∃ j u, decode s.cfg (.writePort .seq) (a * 256 + v.toNat) = .ok j ∧ exec j s = .next u ∧
      t = { u with seqState := t.seqState, seqPhase := t.seqPhase, iter := t.iter }

/-- 42 section 1 (derived by the spec from the state rules): where the configuration is well formed, `seq` is legal and
`iter` is in its bound, exactly one micro-operation is enabled, it is the one the selection word selects, and with no
input pending the step performs it: SEQ is never stuck. -/
def Obligations.ExactlyOneMicroOperationIsEnabled : Prop :=
  ∀ s : State, s.cfg.WellFormed → LegalSeq s → s.iter ≤ s.cfg.delayCount →
    ∃ i ∈ microOps, decode s.cfg .sequencer (selectionWord s) = .ok i ∧ (∃ t, exec i s = .next t) ∧
      (∀ j ∈ microOps, (∃ t, exec j s = .next t) → j = i) ∧ (s.edges = [] → ∃ t, step s = .next t)

/-- 42 section 3 (derived by the spec): `T2` from (`PIN_HIGH`, 0) is `DELAY_COUNT + 2` steps and two writes, and ends
in (`PIN_LOW`, 0); run as the list of its operations it does the same. -/
def Obligations.TransitionTwoTakesDelayCountPlusTwo : Prop :=
  ∀ s : State, s.cfg.WellFormed → s.edges = [] → s.seqState = .pinHigh → s.seqPhase = .phAssert →
    ∃ t, runFor (s.cfg.delayCount + 2) s = .next t ∧ execList (transition2 s.cfg) s = .next t ∧
      t = { s with
        data := 0x00, iter := s.cfg.delayCount, seqState := .pinLow, seqPhase := .phAssert, seqno := s.seqno + 2,
        trace := s.trace ++ [⟨s.cfg.dataAddr, mask s.cfg, s.seqno⟩, ⟨s.cfg.dataAddr, 0x00, s.seqno + 1⟩] }

/-- 42 section 3 (derived by the spec): a cycle, begun in (`PIN_UNCONFIGURED`, 0) or (`PIN_LOW`, 0), takes
`DELAY_COUNT + 3` steps and issues exactly three writes in order, direction, assert, deassert; as the list
`BLINK_CYCLE` it does the same. -/
def Obligations.BlinkCycleIsThreeWrites : Prop :=
  ∀ (s : State) (k : Nat), s.cfg.WellFormed → s.edges = [] → s.seqPhase = .phAssert →
    s.seqState = (if k = 0 then .pinUnconfigured else .pinLow) →
    ∃ t, runFor (s.cfg.delayCount + 3) s = .next t ∧ execList (blinkCycle s.cfg k) s = .next t ∧
      t = { s with
        dir := mask s.cfg, data := 0x00, iter := s.cfg.delayCount, seqState := .pinLow, seqPhase := .phAssert,
        seqno := s.seqno + 3,
        trace := s.trace ++ [⟨s.cfg.dirAddr, mask s.cfg, s.seqno⟩, ⟨s.cfg.dataAddr, mask s.cfg, s.seqno + 1⟩,
          ⟨s.cfg.dataAddr, 0x00, s.seqno + 2⟩] }

/-- 42 section 3, the closed form (derived by the spec): for every well-formed configuration and every `n`, the state
after `n` steps from reset is `stateAfter c n`, and the operation of step `n + 1` is `opAfter c n`. -/
def Obligations.RunFromResetIsTheClosedForm : Prop :=
  ∀ (c : Config) (n : Nat), c.WellFormed →
    runFor n (State.resetOf c) = .next (stateAfter c n) ∧ sequencerOp (stateAfter c n) = some (opAfter c n)

/-- 42 section 3 (derived by the spec from progress and the cycle): for every bound `K` the run from reset reaches the
end of cycle `K - 1` after exactly `K * (DELAY_COUNT + 3)` steps with `3K` records, and every longer run goes on. -/
def Obligations.ControllerNeverTerminates : Prop :=
  ∀ (c : Config) (K : Nat), c.WellFormed →
    (∃ t, runFor (K * (c.delayCount + 3)) (State.resetOf c) = .next t ∧ t.trace.length = 3 * K ∧
      t.trace.map (fun r => (r.address, r.value)) =
        (List.replicate K [(c.dirAddr, mask c), (c.dataAddr, mask c), (c.dataAddr, 0x00)]).flatten) ∧
    ∀ n, ∃ t, runFor n (State.resetOf c) = .next t

/-- 42 R120: two instances that differ only in `LED_PIN` go through the same steps, and their traces differ only in the
value field of the records that carry the mask. -/
def Obligations.ChangingThePinChangesOnlyTheMask : Prop :=
  ∀ (c : Config) (p n : Nat), c.WellFormed → p < 8 →
    ∃ s t, runFor n (State.resetOf c) = .next s ∧ runFor n (State.resetOf { c with ledPin := p }) = .next t ∧
      t.seqState = s.seqState ∧ t.seqPhase = s.seqPhase ∧ t.iter = s.iter ∧ t.seqno = s.seqno ∧
      t.trace = s.trace.map fun r =>
        { r with value := if r.value = mask c then mask { c with ledPin := p } else r.value }

/-- 42 section 3 with 10_state R31 (a consequence the spec derives): in every cycle after the first the pin `LED_PIN`
is high after the assert write and after each tick, and low after the direction and the deassert write. -/
def Obligations.LedPinWaveform : Prop :=
  ∀ (c : Config) (n : Nat) (p : Fin 8), c.WellFormed → p.val = c.ledPin → c.delayCount + 3 < n →
    ∃ t, runFor n (State.resetOf c) = .next t ∧
      level t p = some (decide (2 ≤ n % (c.delayCount + 3)))

/-! ### The machine as a whole -/

/-- 60 R126 with 42 R108 and 20_memory R65: from every state of the open invariant whose next edge the hardware can
meet (the list of inputs is the model's own, log 5), the step completes: there is no fault and no stuck state. -/
def Obligations.EveryPossibleStepCompletes : Prop :=
  ∀ s : State, OpenInv s → (∀ e ∈ s.edges.head?, possibleEdge s.cfg e = true) → ∃ t, step s = .next t

/-- 10_state section 11 (derived by the spec): the open invariant (iter bound, legal `seq`, numbering and contents of the
trace, its length modulo 3) is kept by every step, ENV writes and resets included. -/
def Obligations.StepKeepsTheOpenInvariant : Prop :=
  ∀ s t : State, OpenInv s → step s = .next t → OpenInv t

/-- 10_state section 11 (derived by the spec): the closed invariant, which also fixes `DIR` and `DATA` at every place of
the sequence, is kept by every step of a block without ENV. -/
def Obligations.StepKeepsTheClosedInvariant : Prop :=
  ∀ s t : State, ClosedInv s → step s = .next t → ClosedInv t

/-- 10_state R41: the reset values, for every configuration, `DATA_RESET` open; and the reset state meets the open
invariant, and the closed one where `EXT_WRITERS = false`. -/
def Obligations.ResetStateMeetsTheInvariants : Prop :=
  ∀ c : Config, c.WellFormed →
    OpenInv (State.resetOf c) ∧ (c.extWriters = false → ClosedInv (State.resetOf c))

/-- 10_state R41: what every element holds after reset, with `DIR_RESET = 0x00` in the machine the host starts and
`DATA_RESET` open; after the first step the pin `LED_PIN` is an output that drives its bit of `DATA_RESET`. -/
def Obligations.ResetValues : Prop :=
  (∀ c : Config, let s := State.resetOf c
    s.seqState = .pinUnconfigured ∧ s.seqPhase = .phAssert ∧ s.iter = 0 ∧ s.dir = c.dirReset ∧ s.data = c.dataReset ∧
      s.trace = [] ∧ s.seqno = 0 ∧ pinOe s = c.dirReset ∧ pinOut s = c.dataReset ∧ sequencerOp s = some .seqCfg) ∧
  State.reset.dir = 0x00 ∧
  ∀ (c : Config) (p : Fin 8), c.WellFormed → p.val = c.ledPin →
    ∃ t, step (State.resetOf c) = .next t ∧ level t p = some (c.dataReset.getLsbD p)

/-- 70 R151: at an edge with `rst = 1` every state element takes its reset value whatever the block was doing, no write
is issued, the trace is emptied and the configuration stays; while `rst` stays 1 the state stays at the reset values. -/
def Obligations.ResetStepTakesResetValues : Prop :=
  ∀ (s : State) (rest : List Edge), s.cfg.WellFormed → s.edges = .rst :: rest →
    step s = .next { State.resetOf s.cfg with edges := rest } ∧ portWrite s = none ∧ trValid s = false ∧
    ∀ rest', rest = .rst :: rest' →
      step { State.resetOf s.cfg with edges := rest } = .next { State.resetOf s.cfg with edges := rest' }

/-- 70 R153: reset may arrive after any number of steps, in the middle of a cycle or of a delay, and the run after it
is indistinguishable from a first run. -/
def Obligations.RunAfterResetIsAFirstRun : Prop :=
  ∀ (c : Config) (n m : Nat), c.WellFormed →
    runFor (n + 1 + m) { State.resetOf c with edges := List.replicate n .run ++ [.rst] } =
      runFor m (State.resetOf c)

/-- 70 section 1 (derived by the spec): the first step after reset is `SEQ.CFG`, whose direction write carries number
0, and the second is `SEQ.ASSERT`: no data write precedes the first direction write. -/
def Obligations.FirstTwoStepsAreDirectionThenAssert : Prop :=
  ∀ c : Config, c.WellFormed →
    ∃ s t, step (State.resetOf c) = .next s ∧ step s = .next t ∧
      sequencerOp (State.resetOf c) = some .seqCfg ∧ sequencerOp s = some .seqAssert ∧
      t.trace = [⟨c.dirAddr, mask c, 0⟩, ⟨c.dataAddr, mask c, 1⟩]

/-- 00_scope R11: a configuration is built exactly when the five conditions hold; an ill-formed one is refused when the
machine is built, and no step of it has a behaviour. -/
def Obligations.IllFormedConfigurationsAreRefused : Prop :=
  (∀ c : Config, (c.ledPin < 8 ∧ c.dirAddr < 2 ^ c.aw ∧ c.dataAddr < 2 ^ c.aw ∧ c.dirAddr ≠ c.dataAddr ∧
      c.delayCount < 2 ^ c.cw) → build c = .next (State.resetOf c)) ∧
  (∀ c : Config, ¬ (c.ledPin < 8 ∧ c.dirAddr < 2 ^ c.aw ∧ c.dataAddr < 2 ^ c.aw ∧ c.dirAddr ≠ c.dataAddr ∧
      c.delayCount < 2 ^ c.cw) →
    build c = .refused .illFormedConfig ∧ (∀ i s t, s.cfg = c → exec i s ≠ .next t) ∧
      ∀ s t, s.cfg = c → step s ≠ .next t)

/-- 00_scope R12: no operation, no write and no reset changes a parameter. -/
def Obligations.ConfigurationNeverChanges : Prop :=
  (∀ (i : Instr) (s t : State), exec i s = .next t → t.cfg = s.cfg) ∧
  (∀ s t : State, step s = .next t → t.cfg = s.cfg)

/-- 10_state R34, R35 with 20_memory R57: a step either is a reset step, which empties the trace and the counter, or
leaves both, or appends exactly one record that carries `seqno` and adds 1 to it. Nothing else touches the trace. -/
def Obligations.EachStepAppendsAtMostOneRecord : Prop :=
  ∀ s t : State, step s = .next t →
    ((∃ rest, s.edges = .rst :: rest) ∧ t.trace = [] ∧ t.seqno = 0) ∨
    (t.trace = s.trace ∧ t.seqno = s.seqno) ∨
    (∃ a v, t.trace = s.trace ++ [⟨a, v, s.seqno⟩] ∧ t.seqno = s.seqno + 1)

/-- 10_state R39: `tr_valid = 1` exactly in the steps `SEQ.CFG`, `SEQ.ASSERT`, `SEQ.DEASSERT`, `SEQ.LOOP`, and 0 in
`SEQ.TICK` and in a reset step; what the tap carries is what the harness appends, with `seqno`. -/
def Obligations.TapCarriesTheRecordedWrites : Prop :=
  (∀ s : State, trValid s = true ↔
    sequencerOp s ∈ [some .seqCfg, some .seqAssert, some .seqDeassert, some .seqLoop]) ∧
  (∀ s : State, sequencerOp s = some .seqTick → trValid s = false) ∧
  (∀ (s : State) (rest : List Edge), s.edges = .rst :: rest → trValid s = false) ∧
  (∀ s t : State, step s = .next t → (∀ rest, s.edges ≠ .rst :: rest) →
    t.trace = s.trace ++ (tap s).toList.map fun w => ⟨w.1, w.2, s.seqno⟩)

/-- 42 section 1 (derived by the spec): the only addresses SEQ ever writes are `DIR_ADDR` and `DATA_ADDR`, and the only
values `MASK` and `0x00`, in every state. -/
def Obligations.SequencerWritesOnlyItsTwoRegisters : Prop :=
  ∀ (s : State) (a : Nat) (v : Byte), tap s = some (a, v) →
    (a = s.cfg.dirAddr ∧ v = mask s.cfg) ∨ (a = s.cfg.dataAddr ∧ (v = mask s.cfg ∨ v = 0x00))

/-- 20_memory R46, R48, R56: in every step but a reset step a register takes the value on the write port if the address
is its own, complete at the end of that step, and otherwise keeps what it held; with nothing on the port both keep. -/
def Obligations.RegistersFollowTheWritePort : Prop :=
  ∀ s t : State, step s = .next t → (∀ rest, s.edges ≠ .rst :: rest) →
    t.dir = (match portWrite s with
      | some (a, v) => if a = s.cfg.dirAddr then v else s.dir
      | none => s.dir) ∧
    t.data = (match portWrite s with
      | some (a, v) => if a = s.cfg.dataAddr then v else s.data
      | none => s.data)

/-- 20_memory section 3, the consistency model of the closed block (derived by the spec from the ordering rules): that
each register holds the value of its latest recorded write, or its reset value, is kept by every step. -/
def Obligations.RegistersHoldTheirLatestWrite : Prop :=
  ∀ s t : State, s.cfg.extWriters = false →
    s.dir = latestWrite s.trace s.cfg.dirAddr s.cfg.dirReset →
    s.data = latestWrite s.trace s.cfg.dataAddr s.cfg.dataReset → step s = .next t →
    t.dir = latestWrite t.trace t.cfg.dirAddr t.cfg.dirReset ∧
    t.data = latestWrite t.trace t.cfg.dataAddr t.cfg.dataReset

/-- 10_state R31, R32: `pin_oe = DIR` and `pin_out = DATA`; pin `i` is high, low or without a level as its two register
bits say, and a data write to an undriven pin is stored and shows as soon as the direction bit becomes 1. -/
def Obligations.PinLevelsFollowTheRegisters : Prop :=
  (∀ (s : State) (i : Fin 8), pinOe s = s.dir ∧ pinOut s = s.data ∧
    (s.dir.getLsbD i = true → s.data.getLsbD i = true → level s i = some true) ∧
    (s.dir.getLsbD i = true → s.data.getLsbD i = false → level s i = some false) ∧
    (s.dir.getLsbD i = false → level s i = none)) ∧
  (∀ (s : State) (iss : Issuer) (v d : Byte) (i : Fin 8), s.cfg.WellFormed → s.dir.getLsbD i = false →
    ∃ t u, exec (.outbData iss v) s = .next t ∧ level t i = none ∧ exec (.outbDir iss d) t = .next u ∧
      (d.getLsbD i = true → level u i = some (v.getLsbD i)))

/-- 10_state section 6 (derived by the spec): SEQ never consults the registers. Two states that differ only in `DIR` and
`DATA` take steps whose results agree in everything but `DIR` and `DATA`, or both stop the same way. -/
def Obligations.SequencerIgnoresTheRegisters : Prop :=
  ∀ (s : State) (d e : Byte),
    tap { s with dir := d, data := e } = tap s ∧
    (∀ t, step s = .next t → ∃ u, step { s with dir := d, data := e } = .next u ∧ u = { t with dir := u.dir, data := u.data }) ∧
    (∀ r, step s = .refused r → step { s with dir := d, data := e } = .refused r)

/-- 20_memory R65: where `EXT_WRITERS = true` ENV may perform any `OUTB(a, v)` at any point, with the register effect of
40 R91 to R93, no record, and `seq` and `iter` untouched, so it enables and disables no SEQ step; where it is false
there is no such step (that its absence is a refusal is the model's, log 5). -/
def Obligations.ExternalWriterOnlyWritesRegisters : Prop :=
  ∀ (s : State) (a : Nat) (v : Byte) (rest : List Edge), s.cfg.WellFormed → a < 2 ^ s.cfg.aw →
    s.edges = .env (a * 256 + v.toNat) :: rest →
    (s.cfg.extWriters = true →
      step s = .next { s with
        dir := if a = s.cfg.dirAddr then v else s.dir
        data := if a = s.cfg.dataAddr then v else s.data
        edges := rest }) ∧
    (s.cfg.extWriters = false → step s = .refused .noExternalWriter)

/-- 20_memory R65, at the level of a whole run: whatever ENV writes and whenever, the trace, `seqno`, `seq` and `iter`
are those of the closed run of as many SEQ steps. -/
def Obligations.TraceIsUnaffectedByExternalWrites : Prop :=
  ∀ (c : Config) (es : List Edge), c.WellFormed → (∀ e ∈ es, e ≠ .rst ∧ possibleEdge c e = true) →
    ∃ s t, runFor es.length { State.resetOf c with edges := es } = .next s ∧
      runFor (sequencerSteps es) (State.resetOf c) = .next t ∧
      s.trace = t.trace ∧ s.seqno = t.seqno ∧ s.seqState = t.seqState ∧ s.seqPhase = t.seqPhase ∧ s.iter = t.iter

/-- 42 R118: the deassert write sets all eight bits of `DATA` to 0, so it drives low every pin that is an output; in the
closed system the single-bit variant would have given the same `DATA`. -/
def Obligations.DeassertIsAFullRegisterClear : Prop :=
  (∀ s t : State, exec .seqDeassert s = .next t →
    t.data = 0x00 ∧ ∀ i : Fin 8, s.dir.getLsbD i = true → level t i = some false) ∧
  (∀ s t : State, ClosedInv s → exec .seqDeassert s = .next t → t.data = s.data &&& ~~~ mask s.cfg)
end

