-- ==== Sys2Proof/Laws/Decode.lean ====
section
/-! SUPPORT. What decoding gives: the parts of a W word, and the operation each state of SEQ selects. -/

namespace Sys2Proof

theorem wordAddr_transactionWord (a : Nat) (v : Byte) : wordAddr (transactionWord a v) = a := by
  have := v.isLt
  unfold wordAddr transactionWord; omega

theorem wordValue_transactionWord (a : Nat) (v : Byte) : wordValue (transactionWord a v) = v := by
  have := v.isLt
  apply BitVec.eq_of_toNat_eq
  simp only [wordValue, transactionWord, BitVec.toNat_ofNat]; omega

theorem transactionWord_parts (w : Nat) : transactionWord (wordAddr w) (wordValue w) = w := by
  simp only [wordAddr, wordValue, transactionWord, BitVec.toNat_ofNat]; omega

/-- A W word is in range exactly when its address is (20_memory R45, 30_encoding R71). -/
theorem wordAddr_lt_iff (w n : Nat) : wordAddr w < 2 ^ n ↔ w < 2 ^ (n + 8) := by
  rw [wordAddr, pow_add]; omega

theorem transactionWord_lt {a n : Nat} (v : Byte) (h : a < 2 ^ n) : transactionWord a v < 2 ^ (n + 8) :=
  (wordAddr_lt_iff _ n).1 (by rwa [wordAddr_transactionWord])

/-- Which operation a W word is, by its address (30_encoding R77). -/
theorem decodeTransaction_ok_iff {c : Config} {issuer : Issuer} {w : Nat} {i : Instr} :
    decodeTransaction c issuer w = .ok i ↔ w < 2 ^ (c.aw + 8) ∧
      (if wordAddr w = c.dirAddr then Instr.outbDir issuer (wordValue w)
       else if wordAddr w = c.dataAddr then .outbData issuer (wordValue w)
       else .outbUnmapped issuer (wordAddr w) (wordValue w)) = i := by
  unfold decodeTransaction
  split_ifs with h h1 h2 <;> simp [h, Nat.lt_of_not_le]

namespace Machine

/-- The micro-operation each state of SEQ selects: the table of 10_state R22 with the reserved pairs of
30_encoding R79. -/
theorem decode_selectionWord (c : Config) (s : State) :
    decode c .sequencer (selectionWord s) =
      match s.seqState, s.seqPhase with
      | .pinUnconfigured, .phAssert => .ok .seqCfg
      | .pinHigh, .phAssert => .ok .seqAssert
      | .pinHigh, .phDelay => if s.iter = s.cfg.delayCount then .ok .seqDeassert else .ok .seqTick
      | .pinLow, .phAssert => .ok .seqLoop
      | .pinUnconfigured, .phDelay => .error .reservedSelection
      | .pinLow, .phDelay => .error .reservedSelection := by
  unfold selectionWord comparator
  generalize s.seqState = st, s.seqPhase = ph
  by_cases h : s.iter = s.cfg.delayCount <;> cases st <;> cases ph <;> simp only [h, decide_true, decide_false] <;> rfl

end Machine

end Sys2Proof
end

