-- ==== Sys2Proof/Laws/State.lean ====
section
/-! SUPPORT. What each state update does to each field, true by unfolding, so that no later proof unfolds a record
update. -/

namespace Sys2Proof.Machine

@[simp] theorem writeDir_cfg (v : Byte) (s : State) : (writeDir v s).cfg = s.cfg := rfl
@[simp] theorem writeDir_dir (v : Byte) (s : State) : (writeDir v s).dir = v := rfl
@[simp] theorem writeDir_data (v : Byte) (s : State) : (writeDir v s).data = s.data := rfl
@[simp] theorem writeDir_seqState (v : Byte) (s : State) : (writeDir v s).seqState = s.seqState := rfl
@[simp] theorem writeDir_seqPhase (v : Byte) (s : State) : (writeDir v s).seqPhase = s.seqPhase := rfl
@[simp] theorem writeDir_iter (v : Byte) (s : State) : (writeDir v s).iter = s.iter := rfl
@[simp] theorem writeDir_trace (v : Byte) (s : State) : (writeDir v s).trace = s.trace := rfl
@[simp] theorem writeDir_seqno (v : Byte) (s : State) : (writeDir v s).seqno = s.seqno := rfl
@[simp] theorem writeDir_edges (v : Byte) (s : State) : (writeDir v s).edges = s.edges := rfl

@[simp] theorem writeData_cfg (v : Byte) (s : State) : (writeData v s).cfg = s.cfg := rfl
@[simp] theorem writeData_dir (v : Byte) (s : State) : (writeData v s).dir = s.dir := rfl
@[simp] theorem writeData_data (v : Byte) (s : State) : (writeData v s).data = v := rfl
@[simp] theorem writeData_seqState (v : Byte) (s : State) : (writeData v s).seqState = s.seqState := rfl
@[simp] theorem writeData_seqPhase (v : Byte) (s : State) : (writeData v s).seqPhase = s.seqPhase := rfl
@[simp] theorem writeData_iter (v : Byte) (s : State) : (writeData v s).iter = s.iter := rfl
@[simp] theorem writeData_trace (v : Byte) (s : State) : (writeData v s).trace = s.trace := rfl
@[simp] theorem writeData_seqno (v : Byte) (s : State) : (writeData v s).seqno = s.seqno := rfl
@[simp] theorem writeData_edges (v : Byte) (s : State) : (writeData v s).edges = s.edges := rfl

@[simp] theorem appendRecord_cfg (a : Nat) (v : Byte) (s : State) : (appendRecord a v s).cfg = s.cfg := rfl
@[simp] theorem appendRecord_dir (a : Nat) (v : Byte) (s : State) : (appendRecord a v s).dir = s.dir := rfl
@[simp] theorem appendRecord_data (a : Nat) (v : Byte) (s : State) : (appendRecord a v s).data = s.data := rfl
@[simp] theorem appendRecord_seqState (a : Nat) (v : Byte) (s : State) : (appendRecord a v s).seqState = s.seqState := rfl
@[simp] theorem appendRecord_seqPhase (a : Nat) (v : Byte) (s : State) : (appendRecord a v s).seqPhase = s.seqPhase := rfl
@[simp] theorem appendRecord_iter (a : Nat) (v : Byte) (s : State) : (appendRecord a v s).iter = s.iter := rfl
@[simp] theorem appendRecord_trace (a : Nat) (v : Byte) (s : State) : (appendRecord a v s).trace = s.trace ++ [⟨a, v, s.seqno⟩] := rfl
@[simp] theorem appendRecord_seqno (a : Nat) (v : Byte) (s : State) : (appendRecord a v s).seqno = s.seqno + 1 := rfl
@[simp] theorem appendRecord_edges (a : Nat) (v : Byte) (s : State) : (appendRecord a v s).edges = s.edges := rfl

@[simp] theorem setSeq_cfg (st : SeqState) (ph : Phase) (s : State) : (setSeq st ph s).cfg = s.cfg := rfl
@[simp] theorem setSeq_dir (st : SeqState) (ph : Phase) (s : State) : (setSeq st ph s).dir = s.dir := rfl
@[simp] theorem setSeq_data (st : SeqState) (ph : Phase) (s : State) : (setSeq st ph s).data = s.data := rfl
@[simp] theorem setSeq_seqState (st : SeqState) (ph : Phase) (s : State) : (setSeq st ph s).seqState = st := rfl
@[simp] theorem setSeq_seqPhase (st : SeqState) (ph : Phase) (s : State) : (setSeq st ph s).seqPhase = ph := rfl
@[simp] theorem setSeq_iter (st : SeqState) (ph : Phase) (s : State) : (setSeq st ph s).iter = s.iter := rfl
@[simp] theorem setSeq_trace (st : SeqState) (ph : Phase) (s : State) : (setSeq st ph s).trace = s.trace := rfl
@[simp] theorem setSeq_seqno (st : SeqState) (ph : Phase) (s : State) : (setSeq st ph s).seqno = s.seqno := rfl
@[simp] theorem setSeq_edges (st : SeqState) (ph : Phase) (s : State) : (setSeq st ph s).edges = s.edges := rfl

@[simp] theorem setIter_cfg (n : Nat) (s : State) : (setIter n s).cfg = s.cfg := rfl
@[simp] theorem setIter_dir (n : Nat) (s : State) : (setIter n s).dir = s.dir := rfl
@[simp] theorem setIter_data (n : Nat) (s : State) : (setIter n s).data = s.data := rfl
@[simp] theorem setIter_seqState (n : Nat) (s : State) : (setIter n s).seqState = s.seqState := rfl
@[simp] theorem setIter_seqPhase (n : Nat) (s : State) : (setIter n s).seqPhase = s.seqPhase := rfl
@[simp] theorem setIter_iter (n : Nat) (s : State) : (setIter n s).iter = n := rfl
@[simp] theorem setIter_trace (n : Nat) (s : State) : (setIter n s).trace = s.trace := rfl
@[simp] theorem setIter_seqno (n : Nat) (s : State) : (setIter n s).seqno = s.seqno := rfl
@[simp] theorem setIter_edges (n : Nat) (s : State) : (setIter n s).edges = s.edges := rfl

@[simp] theorem setEdges_cfg (es : List Edge) (s : State) : (setEdges es s).cfg = s.cfg := rfl
@[simp] theorem setEdges_dir (es : List Edge) (s : State) : (setEdges es s).dir = s.dir := rfl
@[simp] theorem setEdges_data (es : List Edge) (s : State) : (setEdges es s).data = s.data := rfl
@[simp] theorem setEdges_seqState (es : List Edge) (s : State) : (setEdges es s).seqState = s.seqState := rfl
@[simp] theorem setEdges_seqPhase (es : List Edge) (s : State) : (setEdges es s).seqPhase = s.seqPhase := rfl
@[simp] theorem setEdges_iter (es : List Edge) (s : State) : (setEdges es s).iter = s.iter := rfl
@[simp] theorem setEdges_trace (es : List Edge) (s : State) : (setEdges es s).trace = s.trace := rfl
@[simp] theorem setEdges_seqno (es : List Edge) (s : State) : (setEdges es s).seqno = s.seqno := rfl
@[simp] theorem setEdges_edges (es : List Edge) (s : State) : (setEdges es s).edges = es := rfl

@[simp] theorem resetOf_cfg (c : Config) : (State.resetOf c).cfg = c := rfl
@[simp] theorem resetOf_dir (c : Config) : (State.resetOf c).dir = c.dirReset := rfl
@[simp] theorem resetOf_data (c : Config) : (State.resetOf c).data = c.dataReset := rfl
@[simp] theorem resetOf_seqState (c : Config) : (State.resetOf c).seqState = .pinUnconfigured := rfl
@[simp] theorem resetOf_seqPhase (c : Config) : (State.resetOf c).seqPhase = .phAssert := rfl
@[simp] theorem resetOf_iter (c : Config) : (State.resetOf c).iter = 0 := rfl
@[simp] theorem resetOf_trace (c : Config) : (State.resetOf c).trace = [] := rfl
@[simp] theorem resetOf_seqno (c : Config) : (State.resetOf c).seqno = 0 := rfl
@[simp] theorem resetOf_edges (c : Config) : (State.resetOf c).edges = [] := rfl

@[simp] theorem recordWrite_cfg (issuer : Issuer) (a : Nat) (v : Byte) (s : State) :
    (recordWrite issuer a v s).cfg = s.cfg := by cases issuer <;> rfl
@[simp] theorem recordWrite_dir (issuer : Issuer) (a : Nat) (v : Byte) (s : State) :
    (recordWrite issuer a v s).dir = s.dir := by cases issuer <;> rfl
@[simp] theorem recordWrite_data (issuer : Issuer) (a : Nat) (v : Byte) (s : State) :
    (recordWrite issuer a v s).data = s.data := by cases issuer <;> rfl
@[simp] theorem recordWrite_seqState (issuer : Issuer) (a : Nat) (v : Byte) (s : State) :
    (recordWrite issuer a v s).seqState = s.seqState := by cases issuer <;> rfl
@[simp] theorem recordWrite_seqPhase (issuer : Issuer) (a : Nat) (v : Byte) (s : State) :
    (recordWrite issuer a v s).seqPhase = s.seqPhase := by cases issuer <;> rfl
@[simp] theorem recordWrite_iter (issuer : Issuer) (a : Nat) (v : Byte) (s : State) :
    (recordWrite issuer a v s).iter = s.iter := by cases issuer <;> rfl
@[simp] theorem recordWrite_edges (issuer : Issuer) (a : Nat) (v : Byte) (s : State) :
    (recordWrite issuer a v s).edges = s.edges := by cases issuer <;> rfl
@[simp] theorem recordWrite_env (a : Nat) (v : Byte) (s : State) : recordWrite .env a v s = s := rfl
@[simp] theorem recordWrite_seq (a : Nat) (v : Byte) (s : State) : recordWrite .seq a v s = appendRecord a v s := rfl

@[simp] theorem storeByte_cfg (a : Nat) (v : Byte) (s : State) : (storeByte a v s).cfg = s.cfg := by
  unfold storeByte; split_ifs <;> rfl
@[simp] theorem storeByte_seqState (a : Nat) (v : Byte) (s : State) : (storeByte a v s).seqState = s.seqState := by
  unfold storeByte; split_ifs <;> rfl
@[simp] theorem storeByte_seqPhase (a : Nat) (v : Byte) (s : State) : (storeByte a v s).seqPhase = s.seqPhase := by
  unfold storeByte; split_ifs <;> rfl
@[simp] theorem storeByte_iter (a : Nat) (v : Byte) (s : State) : (storeByte a v s).iter = s.iter := by
  unfold storeByte; split_ifs <;> rfl
@[simp] theorem storeByte_trace (a : Nat) (v : Byte) (s : State) : (storeByte a v s).trace = s.trace := by
  unfold storeByte; split_ifs <;> rfl
@[simp] theorem storeByte_seqno (a : Nat) (v : Byte) (s : State) : (storeByte a v s).seqno = s.seqno := by
  unfold storeByte; split_ifs <;> rfl
@[simp] theorem storeByte_edges (a : Nat) (v : Byte) (s : State) : (storeByte a v s).edges = s.edges := by
  unfold storeByte; split_ifs <;> rfl

/-- The deassert write is the constant `0x00` (30_encoding R76). -/
@[simp] theorem deassertValue_eq : deassertValue = 0#8 := rfl

end Sys2Proof.Machine
end

