-- ==== Sys2Proof/Laws/Ops.lean ====
section
/-! SUPPORT. What each shared operation can do, and what each meaning can do, said once. -/

namespace Sys2Proof.Machine

/-- The register effect on `DIR` (20_memory R46). -/
theorem storeByte_dir (a : Nat) (v : Byte) (s : State) :
    (storeByte a v s).dir = if a = s.cfg.dirAddr then v else s.dir := by
  unfold storeByte; split_ifs <;> rfl

/-- The register effect on `DATA` (20_memory R46): `DIR_ADDR` is compared first, so distinct addresses are needed. -/
theorem storeByte_data {a : Nat} {v : Byte} {s : State} (h : s.cfg.dirAddr ≠ s.cfg.dataAddr) :
    (storeByte a v s).data = if a = s.cfg.dataAddr then v else s.data := by
  unfold storeByte
  split_ifs with h1 h2 h2 <;> first | rfl | exact absurd (h1.symm.trans h2) h

/-- A SEQ write to `DIR_ADDR` (40 R90, R91). -/
theorem outb_seq_dir (v : Byte) (s : State) :
    outb .seq s.cfg.dirAddr v s = writeDir v (appendRecord s.cfg.dirAddr v s) := by
  simp [outb, storeByte]

/-- A SEQ write to `DATA_ADDR` (40 R90, R92). -/
theorem outb_seq_data {v : Byte} {s : State} (h : s.cfg.dirAddr ≠ s.cfg.dataAddr) :
    outb .seq s.cfg.dataAddr v s = writeData v (appendRecord s.cfg.dataAddr v s) := by
  simp [outb, storeByte, h.symm]

/-- Nothing goes on without a well-formed configuration. -/
theorem whenBuilt_next_iff {s t : State} {k : Result} :
    whenBuilt s k = .next t ↔ s.cfg.WellFormed ∧ k = .next t := by
  unfold whenBuilt; split_ifs with h
  · exact ⟨fun e => ⟨h, e⟩, fun e => e.2⟩
  · exact ⟨fun e => (nomatch e), fun e => absurd e.1 h⟩

theorem whenBuilt_of_wf {s : State} (k : Result) (h : s.cfg.WellFormed) : whenBuilt s k = k := if_pos h

/-- A micro-operation goes on exactly where it is enabled. -/
theorem require_next_iff {p : Prop} [Decidable p] {m : String} {t u : State} :
    require p m t = .next u ↔ p ∧ t = u := by
  unfold require; split_ifs with h <;> simp [h]

theorem require_of {p : Prop} [Decidable p] (m : String) (t : State) (h : p) : require p m t = .next t := if_pos h

/-- All a reset step can do. -/
theorem resetStep_next_iff {s t : State} :
    resetStep s = .next t ↔ s.cfg.WellFormed ∧ setEdges s.edges (State.resetOf s.cfg) = t := by
  simp [resetStep, whenBuilt_next_iff]

theorem execOutbDir_next_iff {issuer : Issuer} {v : Byte} {s t : State} :
    execOutbDir issuer v s = .next t ↔
      s.cfg.WellFormed ∧ writeDir v (recordWrite issuer s.cfg.dirAddr v s) = t := by
  simp [execOutbDir, whenBuilt_next_iff]

theorem execOutbData_next_iff {issuer : Issuer} {v : Byte} {s t : State} :
    execOutbData issuer v s = .next t ↔
      s.cfg.WellFormed ∧ writeData v (recordWrite issuer s.cfg.dataAddr v s) = t := by
  simp [execOutbData, whenBuilt_next_iff]

theorem execOutbUnmapped_next_iff {issuer : Issuer} {a : Nat} {v : Byte} {s t : State} :
    execOutbUnmapped issuer a v s = .next t ↔
      s.cfg.WellFormed ∧ s.cfg.Unmapped a ∧ recordWrite issuer a v s = t := by
  unfold execOutbUnmapped; rw [whenBuilt_next_iff]; refine and_congr_right fun _ => ?_
  split_ifs with h
  · exact ⟨fun e => ⟨h, by injection e⟩, fun e => by rw [e.2]⟩
  · exact ⟨fun e => (nomatch e), fun e => absurd e.1 h⟩

theorem execSeqCfg_next_iff {s t : State} :
    execSeqCfg s = .next t ↔ s.cfg.WellFormed ∧ s.AtSeq .pinUnconfigured .phAssert ∧
      setSeq .pinHigh .phAssert (writeDir (mask s.cfg) (appendRecord s.cfg.dirAddr (mask s.cfg) s)) = t := by
  simp [execSeqCfg, whenBuilt_next_iff, require_next_iff, outb_seq_dir]

theorem execSeqAssert_next_iff {s t : State} :
    execSeqAssert s = .next t ↔ s.cfg.WellFormed ∧ s.AtSeq .pinHigh .phAssert ∧
      setSeq .pinHigh .phDelay (setIter 0
        (writeData (mask s.cfg) (appendRecord s.cfg.dataAddr (mask s.cfg) s))) = t := by
  rw [execSeqAssert, whenBuilt_next_iff, require_next_iff]
  exact and_congr_right fun h => by rw [outb_seq_data h.2.2.2.1]

theorem execSeqTick_next_iff {s t : State} :
    execSeqTick s = .next t ↔ s.cfg.WellFormed ∧ (s.AtSeq .pinHigh .phDelay ∧ s.iter < s.cfg.delayCount) ∧
      setIter (s.iter + 1) s = t := by
  rw [execSeqTick, whenBuilt_next_iff, require_next_iff]

theorem execSeqDeassert_next_iff {s t : State} :
    execSeqDeassert s = .next t ↔ s.cfg.WellFormed ∧
      (s.AtSeq .pinHigh .phDelay ∧ s.iter = s.cfg.delayCount) ∧
      setSeq .pinLow .phAssert (writeData deassertValue (appendRecord s.cfg.dataAddr deassertValue s)) = t := by
  rw [execSeqDeassert, whenBuilt_next_iff, require_next_iff]
  exact and_congr_right fun h => by rw [outb_seq_data h.2.2.2.1]

theorem execSeqLoop_next_iff {s t : State} :
    execSeqLoop s = .next t ↔ s.cfg.WellFormed ∧ s.AtSeq .pinLow .phAssert ∧
      setSeq .pinHigh .phAssert (writeDir (mask s.cfg) (appendRecord s.cfg.dirAddr (mask s.cfg) s)) = t := by
  simp [execSeqLoop, whenBuilt_next_iff, require_next_iff, outb_seq_dir]

end Sys2Proof.Machine
end

