-- ==== Sys2Proof/Laws/PerInstr.lean ====
section
/-! SUPPORT. A law of every operation as syntax: the word of a well-formed operation fits the format of its place
(30_encoding R71, R72, R81). -/

namespace Sys2Proof.Laws.EncodingFits

/-- The encoding of `i` has no bit above its format's width. -/
def Statement (i : Instr) : Prop :=
  ∀ c : Config, c.WellFormed → i.wellFormed c = true → encode c i < 2 ^ wordBits c (placeOf i)

theorem outbDir (issuer : Issuer) (value : Byte) : Statement (.outbDir issuer value) :=
  fun _ hc _ => transactionWord_lt value hc.2.1

theorem outbData (issuer : Issuer) (value : Byte) : Statement (.outbData issuer value) :=
  fun _ hc _ => transactionWord_lt value hc.2.2.1

theorem outbUnmapped (issuer : Issuer) (addr : Nat) (value : Byte) : Statement (.outbUnmapped issuer addr value) :=
  fun _ _ hi => transactionWord_lt value (of_decide_eq_true hi).1

theorem seqCfg : Statement .seqCfg := fun _ _ _ => by simp only [encode, placeOf, wordBits]; decide

theorem seqAssert : Statement .seqAssert := fun _ _ _ => by simp only [encode, placeOf, wordBits]; decide

theorem seqTick : Statement .seqTick := fun _ _ _ => by simp only [encode, placeOf, wordBits]; decide

theorem seqDeassert : Statement .seqDeassert := fun _ _ _ => by simp only [encode, placeOf, wordBits]; decide

theorem seqLoop : Statement .seqLoop := fun _ _ _ => by simp only [encode, placeOf, wordBits]; decide

end Sys2Proof.Laws.EncodingFits
end

