-- ==== Sys2Proof/Laws/Step.lean ====
section
/-! SUPPORT. What one step can do, said once: the inversion of `step`, on which every invariant rests. -/

namespace Sys2Proof.Machine

/-- All a SEQ step can do: one of the five micro-operations of 10_state R22, where it is enabled. -/
theorem sequencer_cases {s t : State} {i : Instr} (hd : decode s.cfg .sequencer (selectionWord s) = .ok i)
    (he : exec i s = .next t) :
    (i = .seqCfg ∧ s.AtSeq .pinUnconfigured .phAssert ∧
      t = setSeq .pinHigh .phAssert (writeDir (mask s.cfg) (appendRecord s.cfg.dirAddr (mask s.cfg) s))) ∨
    (i = .seqAssert ∧ s.AtSeq .pinHigh .phAssert ∧
      t = setSeq .pinHigh .phDelay (setIter 0
        (writeData (mask s.cfg) (appendRecord s.cfg.dataAddr (mask s.cfg) s)))) ∨
    (i = .seqTick ∧ s.AtSeq .pinHigh .phDelay ∧ s.iter < s.cfg.delayCount ∧ t = setIter (s.iter + 1) s) ∨
    (i = .seqDeassert ∧ s.AtSeq .pinHigh .phDelay ∧ s.iter = s.cfg.delayCount ∧
      t = setSeq .pinLow .phAssert (writeData deassertValue (appendRecord s.cfg.dataAddr deassertValue s))) ∨
    (i = .seqLoop ∧ s.AtSeq .pinLow .phAssert ∧
      t = setSeq .pinHigh .phAssert (writeDir (mask s.cfg) (appendRecord s.cfg.dirAddr (mask s.cfg) s))) := by
  rw [decode_selectionWord] at hd
  split at hd
  · cases hd; have := execSeqCfg_next_iff.1 he; exact .inl ⟨rfl, this.2.1, this.2.2.symm⟩
  · cases hd; have := execSeqAssert_next_iff.1 he; exact .inr (.inl ⟨rfl, this.2.1, this.2.2.symm⟩)
  · split at hd <;> cases hd
    · have := execSeqDeassert_next_iff.1 he
      exact .inr (.inr (.inr (.inl ⟨rfl, this.2.1.1, this.2.1.2, this.2.2.symm⟩)))
    · have := execSeqTick_next_iff.1 he
      exact .inr (.inr (.inl ⟨rfl, this.2.1.1, this.2.1.2, this.2.2.symm⟩))
  · cases hd; have := execSeqLoop_next_iff.1 he
    exact .inr (.inr (.inr (.inr ⟨rfl, this.2.1, this.2.2.symm⟩)))
  · cases hd
  · cases hd

/-- An executed operation has a well-formed configuration under it. -/
theorem wellFormed_of_exec {i : Instr} {s t : State} (h : exec i s = .next t) : s.cfg.WellFormed := by
  cases i with
  | outbDir => exact (execOutbDir_next_iff.1 h).1
  | outbData => exact (execOutbData_next_iff.1 h).1
  | outbUnmapped => exact (execOutbUnmapped_next_iff.1 h).1
  | seqCfg => exact (execSeqCfg_next_iff.1 h).1
  | seqAssert => exact (execSeqAssert_next_iff.1 h).1
  | seqTick => exact (execSeqTick_next_iff.1 h).1
  | seqDeassert => exact (execSeqDeassert_next_iff.1 h).1
  | seqLoop => exact (execSeqLoop_next_iff.1 h).1

/-- An executed write transaction is its register effect and its record (40 R90). -/
theorem exec_of_transaction {s t : State} {issuer : Issuer} {w : Nat} {i : Instr}
    (hd : decode s.cfg (.writePort issuer) w = .ok i) (he : exec i s = .next t) :
    w < 2 ^ (s.cfg.aw + 8) ∧ t = outb issuer (wordAddr w) (wordValue w) s := by
  obtain ⟨hw, hi⟩ := decodeTransaction_ok_iff.1 hd
  refine ⟨hw, ?_⟩
  split_ifs at hi with h1 h2 <;> subst hi
  · simp [outb, storeByte, h1, (execOutbDir_next_iff.1 he).2.symm]
  · have hne := (wellFormed_of_exec he).2.2.2.1
    simp [outb, storeByte, h2, hne.symm, (execOutbData_next_iff.1 he).2.symm]
  · simp [outb, storeByte, h1, h2, (execOutbUnmapped_next_iff.1 he).2.2.symm]

/-- All a step can do: a reset step, an ENV write, or a SEQ step. -/
theorem step_next_cases {s t : State} (h : step s = .next t) :
    s.cfg.WellFormed ∧
    ((∃ rest, s.edges = .rst :: rest ∧ t = setEdges rest (State.resetOf s.cfg)) ∨
     (∃ w rest, s.edges = .env w :: rest ∧ s.cfg.extWriters = true ∧ w < 2 ^ (s.cfg.aw + 8) ∧
        t = storeByte (wordAddr w) (wordValue w) (setEdges rest s)) ∨
     (∃ rest i, (s.edges = [] ∧ rest = [] ∨ s.edges = .run :: rest) ∧
        decode s.cfg .sequencer (selectionWord s) = .ok i ∧ exec i (setEdges rest s) = .next t)) := by
  unfold step fetch at h
  match he : s.edges with
  | [] =>
    rw [he] at h; simp only at h
    have hs : setEdges [] s = s := by cases s; subst he; rfl
    split at h
    · rename_i i hd
      exact ⟨wellFormed_of_exec h, .inr (.inr ⟨[], i, .inl ⟨rfl, rfl⟩, hd, by rw [hs]; exact h⟩)⟩
    · cases h
  | .run :: rest =>
    rw [he] at h; simp only at h
    split at h
    · rename_i i hd
      exact ⟨wellFormed_of_exec (s := setEdges rest s) h, .inr (.inr ⟨rest, i, .inr rfl, hd, h⟩)⟩
    · cases h
  | .rst :: rest =>
    rw [he] at h; simp only at h
    obtain ⟨hw, ht⟩ := resetStep_next_iff.1 h
    exact ⟨hw, .inl ⟨rest, rfl, ht.symm⟩⟩
  | .env w :: rest =>
    rw [he] at h; simp only at h
    by_cases hx : s.cfg.extWriters = true
    · rw [if_pos hx] at h; simp only at h
      split at h
      · rename_i i hd
        obtain ⟨hw, ht⟩ := exec_of_transaction hd h
        exact ⟨wellFormed_of_exec (s := setEdges rest s) h,
          .inr (.inl ⟨w, rest, rfl, hx, hw, by simpa [outb] using ht⟩)⟩
      · cases h
    · rw [if_neg hx] at h; cases h

open Safety in
theorem runFor_zero (s : State) : runFor 0 s = .next s := rfl

open Safety in
/-- `n + 1` edges where the first gives a next state. -/
theorem runFor_succ_of_step {s t : State} (n : Nat) (h : step s = .next t) : runFor (n + 1) s = runFor n t := by
  rw [runFor, h]

open Safety in
/-- Edges one after another. -/
theorem runFor_add_of {m : Nat} {s t : State} (n : Nat) (h : runFor m s = .next t) :
    runFor (m + n) s = runFor n t := by
  induction m generalizing s with
  | zero => rw [runFor_zero] at h; cases h; rw [Nat.zero_add]
  | succ m ih =>
    rw [Nat.succ_add, runFor]
    rw [runFor] at h
    cases hs : step s with
    | next u => rw [hs] at h; exact ih h
    | fault r => rw [hs] at h; cases h
    | refused r => rw [hs] at h; cases h

open Safety in
/-- One more edge after a run. -/
theorem runFor_succ_of {n : Nat} {s t : State} (h : runFor n s = .next t) : runFor (n + 1) s = step t := by
  rw [runFor_add_of 1 h, runFor]
  cases step t <;> rfl

/-- One step of the host's run, for any machine. -/
theorem core_run_succ (M : Host.Core) (n : Nat) (s : M.State) :
    M.run (n + 1) s = match M.step s with
      | .next t => M.run n t
      | .fault r => .fault r
      | .refused r => .refused r := by
  cases h : M.step s <;> simp only [Host.Core.run, h]

open Safety in
/-- The statements' run is the host's. -/
theorem runFor_eq_core_run (n : Nat) (s : State) : runFor n s = Sys2Proof.core.run n s := by
  induction n generalizing s with
  | zero => rfl
  | succ n ih =>
    refine Eq.trans ?_ (core_run_succ Sys2Proof.core n s).symm
    rw [runFor]
    cases hs : step s with
    | next t => rw [show Sys2Proof.core.step s = .next t from hs]; exact ih t
    | fault r => rw [show Sys2Proof.core.step s = .fault r from hs]; rfl
    | refused r => rw [show Sys2Proof.core.step s = .refused r from hs]; rfl

end Sys2Proof.Machine
end

