-- ==== Sys2Proof/Laws/Safety.lean ====
section
/-! SUPPORT. The small lemmas of the controller's trace and of the closed form (42_blink_controller R121). -/

namespace Sys2Proof.Safety

open Sys2Proof.Machine

@[simp] theorem controllerTrace_zero (c : Config) : controllerTrace c 0 = [] := rfl

@[simp] theorem controllerTrace_length (c : Config) (n : Nat) : (controllerTrace c n).length = n := by
  simp [controllerTrace]

/-- The trace grows by one record at a time. -/
theorem controllerTrace_succ (c : Config) (n : Nat) :
    controllerTrace c (n + 1) = controllerTrace c n ++ [traceRecord c n] := by
  simp [controllerTrace, List.range_succ]

theorem traceRecord_direction (c : Config) {j : Nat} (h : j % 3 = 0) : traceRecord c j = ⟨c.dirAddr, mask c, j⟩ := by
  simp [traceRecord, h]

theorem traceRecord_assert (c : Config) {j : Nat} (h : j % 3 = 1) : traceRecord c j = ⟨c.dataAddr, mask c, j⟩ := by
  simp [traceRecord, h]

theorem traceRecord_deassert (c : Config) {j : Nat} (h : j % 3 = 2) : traceRecord c j = ⟨c.dataAddr, 0x00, j⟩ := by
  simp [traceRecord, h]

@[simp] theorem latestWrite_nil (a : Nat) (v : Byte) : latestWrite [] a v = v := rfl

/-- A new record is the latest write to its own address and to no other. -/
@[simp] theorem latestWrite_append (trace : List Record) (r : Record) (a : Nat) (v : Byte) :
    latestWrite (trace ++ [r]) a v = if r.address = a then r.value else latestWrite trace a v := by
  simp [latestWrite]

theorem stateAfter_zero (c : Config) : stateAfter c 0 = State.resetOf c := by simp [stateAfter]

/-- The closed form at the end of cycle `k`. -/
theorem stateAfter_low (c : Config) (k : Nat) :
    stateAfter c ((k + 1) * (c.delayCount + 3)) = { State.resetOf c with
      seqState := .pinLow, seqPhase := .phAssert, iter := c.delayCount, dir := mask c, data := 0x00,
      trace := controllerTrace c (3 * (k + 1)), seqno := 3 * (k + 1) } := by
  have h0 : (k + 1) * (c.delayCount + 3) ≠ 0 := Nat.mul_ne_zero (by omega) (by omega)
  simp only [stateAfter, if_neg h0, Nat.mul_mod_left, if_true, Nat.mul_div_cancel _ (show 0 < c.delayCount + 3 by omega)]

/-- The closed form after the direction write of cycle `k`. -/
theorem stateAfter_assertDue (c : Config) (k : Nat) :
    stateAfter c (k * (c.delayCount + 3) + 1) = { State.resetOf c with
      seqState := .pinHigh, seqPhase := .phAssert, iter := if k = 0 then 0 else c.delayCount, dir := mask c,
      data := if k = 0 then c.dataReset else 0x00, trace := controllerTrace c (3 * k + 1), seqno := 3 * k + 1 } := by
  have hm : (k * (c.delayCount + 3) + 1) % (c.delayCount + 3) = 1 := by
    rw [Nat.mul_comm, Nat.mul_add_mod, Nat.mod_eq_of_lt (by omega)]
  have hd : (k * (c.delayCount + 3) + 1) / (c.delayCount + 3) = k := by
    rw [Nat.mul_comm, Nat.mul_add_div (by omega), Nat.div_eq_of_lt (by omega), Nat.add_zero]
  simp only [stateAfter, hm, hd, Nat.add_one_ne_zero, if_false, if_true]

/-- The closed form while the delay of cycle `k` has counted `j`. -/
theorem stateAfter_delay (c : Config) (k : Nat) {j : Nat} (hj : j ≤ c.delayCount) :
    stateAfter c (k * (c.delayCount + 3) + (j + 2)) = { State.resetOf c with
      seqState := .pinHigh, seqPhase := .phDelay, iter := j, dir := mask c, data := mask c,
      trace := controllerTrace c (3 * k + 2), seqno := 3 * k + 2 } := by
  have hm : (k * (c.delayCount + 3) + (j + 2)) % (c.delayCount + 3) = j + 2 := by
    rw [Nat.mul_comm, Nat.mul_add_mod, Nat.mod_eq_of_lt (by omega)]
  have hd : (k * (c.delayCount + 3) + (j + 2)) / (c.delayCount + 3) = k := by
    rw [Nat.mul_comm, Nat.mul_add_div (by omega), Nat.div_eq_of_lt (by omega), Nat.add_zero]
  have h0 : k * (c.delayCount + 3) + (j + 2) ≠ 0 := by omega
  simp only [stateAfter, hm, hd, if_neg h0, if_neg (show j + 2 ≠ 0 by omega), if_neg (show j + 2 ≠ 1 by omega),
    Nat.add_sub_cancel]

/-- Every number of steps is one of these four places of a run. -/
theorem stepCount_cases (c : Config) (n : Nat) :
    n = 0 ∨ (∃ k, n = (k + 1) * (c.delayCount + 3)) ∨ (∃ k, n = k * (c.delayCount + 3) + 1) ∨
      ∃ k j, j ≤ c.delayCount ∧ n = k * (c.delayCount + 3) + (j + 2) := by
  have hL : 0 < c.delayCount + 3 := by omega
  have hr := Nat.mod_lt n hL
  have hn : n = n / (c.delayCount + 3) * (c.delayCount + 3) + n % (c.delayCount + 3) := (Nat.div_add_mod' n _).symm
  generalize n / (c.delayCount + 3) = k at hn
  generalize n % (c.delayCount + 3) = r at hn hr
  rcases r with _ | _ | j
  · rcases k with _ | k
    · left; simpa using hn
    · exact .inr (.inl ⟨k, hn⟩)
  · exact .inr (.inr (.inl ⟨k, hn⟩))
  · exact .inr (.inr (.inr ⟨k, j, by omega, hn⟩))

end Sys2Proof.Safety
end

