-- ==== Sys2Proof/Tests/Slice0.lean ====
section
/-! SUPPORT. The model's own tests. Expected results are the spec's tables (95_test_vectors, cited in each group).
The second half shows, for every statement with hypotheses, concrete states and operands that meet them. -/

namespace Sys2Proof.Tests

open Sys2Proof.Machine Sys2Proof.Safety

/-- Program P1's configuration: the reference scenario with a delay of 3; `DATA_RESET` is set to `0xFF` as in vector S6. -/
def tiny : Config := { Config.reference with delayCount := 3, dataReset := 0xFF }

/-- The same block with ENV present (program P4). -/
def tinyOpen : Config := { tiny with extWriters := true }

/-- A state from the columns of 95_test_vectors 2.7: `seq`, `iter`, `DIR`, `DATA`, trace. -/
def at_ (c : Config) (st : SeqState) (ph : Phase) (iter : Nat) (dir data : Byte) (trace : List Record) : State :=
  { State.resetOf c with
    seqState := st, seqPhase := ph, iter := iter, dir := dir, data := data, trace := trace, seqno := trace.length }

/-- A state from the columns of 95_test_vectors 2.4: only `DIR` and `DATA` matter. -/
def regs (dir data : Byte) : State := at_ Config.reference .pinUnconfigured .phAssert 0 dir data []

/-- The next state, if there is one. -/
def nextOf : Result → Option State
  | .next t => some t
  | .fault _ => none
  | .refused _ => none

/-- The refusal, if it is one. -/
def refusalOf : Result → Option Refusal
  | .next _ => none
  | .fault _ => none
  | .refused r => some r

/-- `DIR` and `DATA` of the next state. -/
def regsOf (r : Result) : Option (Byte × Byte) := (nextOf r).map fun t => (t.dir, t.data)

/-- The columns of 95_test_vectors 2.6 and 2.7. -/
structure Columns where
  seqState : SeqState
  seqPhase : Phase
  iter : Nat
  dir : Byte
  data : Byte
  lastRecord : Option Record
  deriving DecidableEq, Repr

/-- `seq`, `iter`, `DIR`, `DATA` of the next state and its last record. -/
def columnsOf (r : Result) : Option Columns :=
  (nextOf r).map fun t => ⟨t.seqState, t.seqPhase, t.iter, t.dir, t.data, t.trace.getLast?⟩

/-- The pins 7 down to 0. -/
def pins (s : State) : List (Option Bool) := [level s 7, level s 6, level s 5, level s 4, level s 3, level s 2, level s 1, level s 0]

/-! ### Configurations and operations: 95_test_vectors 2.10, 30_encoding R77 -/

theorem test_config_ledPin : ({ tiny with ledPin := 7 }).WellFormed ∧ ¬ ({ tiny with ledPin := 8 }).WellFormed := by decide
theorem test_config_dirAddr : ({ tiny with dirAddr := 0xFF }).WellFormed ∧ ¬ ({ tiny with dirAddr := 0x100 }).WellFormed := by
  decide
theorem test_config_dataAddr : ¬ ({ tiny with dataAddr := 0x100 }).WellFormed := by decide
theorem test_config_distinct : Config.reference.WellFormed ∧ ¬ ({ tiny with dirAddr := 0x05 }).WellFormed := by decide
theorem test_config_delayCount :
    ({ tiny with delayCount := 2 ^ 32 - 1 }).WellFormed ∧ ¬ ({ tiny with delayCount := 2 ^ 32 }).WellFormed ∧
      ({ tiny with delayCount := 0 }).WellFormed := by decide
theorem test_build : refusalOf (build { tiny with ledPin := 8 }) = some .illFormedConfig ∧
    nextOf (build tiny) = some (State.resetOf tiny) := by decide

/-- One ill-formed term for each part of the check of `OUTB.UNMAPPED`, beside its well-formed neighbours. -/
theorem test_unmapped_wellFormed :
    (Instr.outbUnmapped .env 0x04 0).wellFormed Config.reference = false ∧
    (Instr.outbUnmapped .env 0x05 0).wellFormed Config.reference = false ∧
    (Instr.outbUnmapped .env 0x100 0).wellFormed Config.reference = false ∧
    (Instr.outbUnmapped .env 0x03 0).wellFormed Config.reference = true ∧
    (Instr.outbUnmapped .env 0x06 0).wellFormed Config.reference = true ∧
    (Instr.outbUnmapped .env 0xFF 0).wellFormed Config.reference = true := by decide

/-! ### Words: 95_test_vectors 2.2 and 2.3 -/

theorem test_decode_outbDir : decodeTableWord 16 0b0000010000100000 = some (.outbDir .env 0x20) ∧
    decodeTableWord 16 0b0000010000000000 = some (.outbDir .env 0x00) ∧
    decodeTableWord 16 0b0000010011111111 = some (.outbDir .env 0xFF) := by decide
theorem test_decode_outbData : decodeTableWord 16 0b0000010100100000 = some (.outbData .env 0x20) ∧
    decodeTableWord 16 0b0000010111111111 = some (.outbData .env 0xFF) := by decide
theorem test_decode_outbUnmapped : decodeTableWord 16 0b0000001100100000 = some (.outbUnmapped .env 0x03 0x20) ∧
    decodeTableWord 16 0b0000011000100000 = some (.outbUnmapped .env 0x06 0x20) ∧
    decodeTableWord 16 0b0000000000000000 = some (.outbUnmapped .env 0x00 0x00) ∧
    decodeTableWord 16 0b1111111111111111 = some (.outbUnmapped .env 0xFF 0xFF) ∧
    decodeTableWord 16 0b0010000000000100 = some (.outbUnmapped .env 0x20 0x04) := by decide
theorem test_decode_seqCfg : decodeTableWord 8 0b0000 = some .seqCfg ∧ decodeTableWord 8 0b1000 = some .seqCfg := by decide
theorem test_decode_seqAssert : decodeTableWord 8 0b0001 = some .seqAssert ∧ decodeTableWord 8 0b1001 = some .seqAssert := by
  decide
theorem test_decode_seqTick : decodeTableWord 8 0b0101 = some .seqTick := by decide
theorem test_decode_seqDeassert : decodeTableWord 8 0b1101 = some .seqDeassert := by decide
theorem test_decode_seqLoop : decodeTableWord 8 0b0010 = some .seqLoop ∧ decodeTableWord 8 0b1010 = some .seqLoop := by decide
theorem test_decode_reserved :
    [0b0011, 0b1011, 0b0100, 0b1100, 0b0110, 0b1110, 0b0111, 0b1111].map (decodeTableWord 8) = List.replicate 8 none := by
  decide
theorem test_decode_too_wide : decodeTableWord 8 0b10000 = none ∧ decodeTableWord 24 0x10420 = none := by decide

/-- Source example E2, pin 0: the words `0x0401`, `0x0501`, `0x0500`. -/
theorem test_encode_pin0 : encode Config.reference (.outbDir .seq (mask { tiny with ledPin := 0 })) = 0x0401 ∧
    encode Config.reference (.outbData .seq (mask { tiny with ledPin := 0 })) = 0x0501 ∧
    encode Config.reference (.outbData .seq deassertValue) = 0x0500 := by decide

/-- 95_test_vectors 2.1. -/
theorem test_mask_table : (List.range 8).map (fun p => mask { tiny with ledPin := p }) =
    [0x01, 0x02, 0x04, 0x08, 0x10, 0x20, 0x40, 0x80] := by decide

/-! ### The register write family: 95_test_vectors 2.4 -/

/-- W6 and W11. -/
theorem test_outbDir : regsOf (exec (.outbDir .env 0x20) (regs 0x00 0x20)) = some (0x20, 0x20) ∧
    regsOf (exec (.outbDir .env 0x00) (regs 0xFF 0xFF)) = some (0x00, 0xFF) := by decide
/-- W5 and W8. -/
theorem test_outbData : regsOf (exec (.outbData .env 0x20) (regs 0x00 0x00)) = some (0x00, 0x20) ∧
    regsOf (exec (.outbData .env 0x20) (regs 0xFF 0x81)) = some (0xFF, 0x20) := by decide
/-- W12 and W13: adjacent addresses change nothing. -/
theorem test_outbUnmapped : nextOf (exec (.outbUnmapped .env 0x06 0xFF) (regs 0x20 0x20)) = some (regs 0x20 0x20) ∧
    nextOf (exec (.outbUnmapped .env 0x03 0x00) (regs 0x20 0x20)) = some (regs 0x20 0x20) := by decide
/-- W4 with the issuer SEQ and with the issuer ENV: the same value again is still one event of SEQ's. -/
theorem test_outb_record :
    (nextOf (exec (.outbDir .seq 0x20) (regs 0x20 0x00))).map (·.trace) = some [⟨0x04, 0x20, 0⟩] ∧
    (nextOf (exec (.outbDir .env 0x20) (regs 0x20 0x00))).map (·.trace) = some [] := by decide

/-- 95_test_vectors 2.5: `0x0F`, `0x55` and `0x20`, `0xDF`. -/
theorem test_pins :
    pins (regs 0x0F 0x55) = [none, none, none, none, some false, some true, some false, some true] ∧
    pins (regs 0x20 0xDF) = [none, none, some false, none, none, none, none, none] := by decide

/-! ### The micro-operations: 95_test_vectors 2.6, 2.7 -/

/-- S1. -/
theorem test_seqCfg : columnsOf (step (State.resetOf tiny)) =
    some ⟨.pinHigh, .phAssert, 0, 0x20, 0xFF, some ⟨0x04, 0x20, 0⟩⟩ := by decide
/-- S6: the assert write clears the other bits of `DATA`. -/
theorem test_seqAssert : columnsOf (step (at_ tiny .pinHigh .phAssert 0 0x20 0xFF [⟨0x04, 0x20, 0⟩])) =
    some ⟨.pinHigh, .phDelay, 0, 0x20, 0x20, some ⟨0x05, 0x20, 1⟩⟩ := by decide
/-- S5: `iter` still holds the previous cycle's count and is set to 0. -/
theorem test_seqAssert_later :
    (columnsOf (step (at_ tiny .pinHigh .phAssert 3 0x20 0x00 []))).map (·.iter) = some 0 := by decide
/-- 2.6, `DELAY_COUNT = 3`: `iter` 2 ticks to 3, and the largest legal count does not wrap. -/
theorem test_seqTick :
    (nextOf (step (at_ tiny .pinHigh .phDelay 2 0x20 0x20 []))).map (fun t => (t.iter, t.trace)) = some (3, []) ∧
    (nextOf (step (at_ { tiny with delayCount := 2 ^ 32 - 1 } .pinHigh .phDelay (2 ^ 32 - 2) 0x20 0x20 []))).map
      (·.iter) = some (2 ^ 32 - 1) := by decide
/-- S3. -/
theorem test_seqDeassert :
    columnsOf (step (at_ Config.reference .pinHigh .phDelay 100000 0x20 0x20 [⟨0x04, 0x20, 0⟩, ⟨0x05, 0x20, 1⟩])) =
      some ⟨.pinLow, .phAssert, 100000, 0x20, 0x00, some ⟨0x05, 0x00, 2⟩⟩ := by decide
/-- 2.6, `DELAY_COUNT = 0`: no tick at all. -/
theorem test_seqDeassert_noDelay :
    (columnsOf (step (at_ { tiny with delayCount := 0 } .pinHigh .phDelay 0 0x20 0x20 []))).map (·.seqState) = some .pinLow := by
  decide
/-- S4. -/
theorem test_seqLoop : columnsOf (step (at_ tiny .pinLow .phAssert 3 0x20 0x00 [⟨0x04, 0x20, 0⟩])) =
    some ⟨.pinHigh, .phAssert, 3, 0x20, 0x00, some ⟨0x04, 0x20, 1⟩⟩ := by decide
/-- `SEQ.LOOP` where `SEQ.CFG` is due is refused by name. -/
theorem test_notEnabled : refusalOf (exec .seqLoop (State.resetOf tiny)) = some (.notEnabled "SEQ.LOOP") := by decide

/-- 2.9: reset in the middle of a delay, and where a deassert is due, whose write is not issued. -/
theorem test_reset_step :
    nextOf (step { at_ tiny .pinHigh .phDelay 3 0x20 0x20 [⟨0x04, 0x20, 0⟩] with edges := [.rst] }) =
      some (State.resetOf tiny) ∧
    tap { at_ tiny .pinHigh .phDelay 3 0x20 0x20 [] with edges := [.rst] } = none ∧
    tap (at_ tiny .pinHigh .phDelay 3 0x20 0x20 []) = some (0x05, 0x00) := by decide

/-- P4, row 7: an ENV write in the middle of a delay. -/
theorem test_env_step :
    nextOf (step { at_ tinyOpen .pinHigh .phDelay 1 0xFF 0x20 [] with edges := [.env 0x05A1] }) =
      some (at_ tinyOpen .pinHigh .phDelay 1 0xFF 0xA1 []) ∧
    refusalOf (step { State.resetOf tiny with edges := [.env 0x05A1] }) = some .noExternalWriter := by decide

/-- A reserved code held in the state is refused (30_encoding R79). -/
theorem test_reserved_step :
    refusalOf (step (at_ tiny .pinLow .phDelay 0 0 0 [])) = some (.undecodable .reservedSelection) := by decide

/-- Each table row's word, placed, is the first operation after reset. -/
theorem test_withFetchWord_transactions :
    regsOf (step (State.reset.withFetchWord 16 0x0420)) = some (0x20, 0x00) ∧
    regsOf (step (State.reset.withFetchWord 16 0x0520)) = some (0x00, 0x20) ∧
    regsOf (step (State.reset.withFetchWord 16 0x0000)) = some (0x00, 0x00) := by decide
theorem test_withFetchWord_selections :
    [0x0, 0x1, 0x5, 0xD, 0x2].map (fun w => sequencerOp (State.reset.withFetchWord 8 w)) =
      [some .seqCfg, some .seqAssert, some .seqTick, some .seqDeassert, some .seqLoop] ∧
    (nextOf (step (State.reset.withFetchWord 8 0x5))).map (·.iter) = some 1 := by decide

/-! ### Witnesses: states and operands that meet the hypotheses of the statements -/

/-- The middle of a delay in cycle 0 of `tiny` (program P1, step 3). -/
def ticking : State := at_ tiny .pinHigh .phDelay 1 0x20 0x20 [⟨0x04, 0x20, 0⟩, ⟨0x05, 0x20, 1⟩]

/-- The end of that delay (P1, step 5). -/
def ticked : State := at_ tiny .pinHigh .phDelay 3 0x20 0x20 [⟨0x04, 0x20, 0⟩, ⟨0x05, 0x20, 1⟩]

/-- The start of that delay (P1, step 2). -/
def asserted : State := at_ tiny .pinHigh .phDelay 0 0x20 0x20 [⟨0x04, 0x20, 0⟩, ⟨0x05, 0x20, 1⟩]

/-- Before that delay (P1, step 1). -/
def configured : State := at_ tiny .pinHigh .phAssert 0 0x20 0xFF [⟨0x04, 0x20, 0⟩]

/-- After that cycle (P1, step 6). -/
def deasserted : State :=
  at_ tiny .pinLow .phAssert 3 0x20 0x00 [⟨0x04, 0x20, 0⟩, ⟨0x05, 0x20, 1⟩, ⟨0x05, 0x00, 2⟩]

/-- The largest address and each class of W word at its edge: `WriteWordIsAddressThenValue`,
`WriteWordDecodesByAddressPriority`, `OperationMapRowsDecode` (first clause), `DecodeOfEncodeIsTheOperation`. -/
theorem witness_transaction_words : Config.reference.WellFormed ∧ 0xFF < 2 ^ Config.reference.aw ∧
    0xFFFF < 2 ^ (Config.reference.aw + 8) ∧ ¬ 0x10000 < 2 ^ (Config.reference.aw + 8) ∧
    0x04FF / 256 = Config.reference.dirAddr ∧ 0x0500 / 256 = Config.reference.dataAddr ∧
    (Instr.outbUnmapped .seq 0xFF 0xFF).wellFormed Config.reference = true := by decide

/-- A word for each S row and each reserved code: `OperationMapRowsDecode`, `ReservedSelectionIsRefused`. -/
theorem witness_selection_words : 0x8 &&& 0x7 = 0x0 ∧ 0x9 &&& 0x7 = 0x1 ∧ 0x5 &&& 0xF = 0x5 ∧ 0xD &&& 0xF = 0xD ∧
    0xA &&& 0x7 = 0x2 ∧ 0xF % 8 ∈ [0b011, 0b100, 0b110, 0b111] ∧ 0b011 % 8 ∈ [0b011, 0b100, 0b110, 0b111] ∧ 0xF < 16 := by
  decide

/-- `EncodeOfDecodedWriteIsTheWord`. -/
theorem witness_decoded_write : decode tiny (.writePort .seq) 0xFFFF = .ok (.outbUnmapped .seq 0xFF 0xFF) := rfl

/-- `StepRunsTheDecodedOperation`, each clause. -/
theorem witness_step_clauses : ticking.edges = [] ∧ decode ticking.cfg .sequencer (selectionWord ticking) = .ok .seqTick ∧
    { ticking with edges := [.run] }.edges = .run :: [] ∧ tinyOpen.extWriters = true ∧
    decode tinyOpen (.writePort .env) 0x05A1 = .ok (.outbData .env 0xA1) := ⟨rfl, rfl, rfl, rfl, rfl⟩

/-- `MaskIsTheLedPinBit` at both ends of its range. -/
theorem witness_ledPin : ({ tiny with ledPin := 0 }).ledPin < 8 ∧ ({ tiny with ledPin := 7 }).ledPin < 8 := by decide

/-- `OutbIsOneRecordAndOneRegister`, `OutbDirReplacesDirection`, `OutbDataReplacesLevels`,
`OutbUnmappedChangesNoRegister`, `RewritingTheSameValueIsAnEvent`, `OperationsOutsideTheirConditionAreRefused`,
`ResetStateMeetsTheInvariants`, `FirstTwoStepsAreDirectionThenAssert`, `RunFromResetIsTheClosedForm`,
`ControllerNeverTerminates`, `RunAfterResetIsAFirstRun`. -/
theorem witness_wellFormed : (regs 0x20 0x20).cfg.WellFormed ∧ tiny.WellFormed ∧ tiny.extWriters = false ∧
    (0xFF < 2 ^ tiny.aw ∧ 0xFF ≠ tiny.dirAddr ∧ 0xFF ≠ tiny.dataAddr) ∧ 2 ^ tiny.aw ≤ 0x100 ∧
    ¬ (State.resetOf tiny).AtSeq .pinHigh .phAssert ∧ ¬ configured.AtSeq .pinUnconfigured .phAssert := by decide

/-- `SeqTickCountsOneIteration`, `OnlyResetCutsADelay`. -/
theorem witness_ticking : ticking.cfg.WellFormed ∧ ticking.AtSeq .pinHigh .phDelay ∧ ticking.iter < ticking.cfg.delayCount ∧
    nextOf (step ticking) = some { ticking with iter := 2 } ∧
    nextOf (step { ticking with edges := [.rst] }) = some (State.resetOf tiny) := by decide

/-- `SpinDelayOnlyCounts` at `n = 0` and `n = DELAY_COUNT`. -/
theorem witness_asserted : asserted.cfg.WellFormed ∧ asserted.edges = [] ∧ asserted.AtSeq .pinHigh .phDelay ∧
    asserted.iter = 0 ∧ 0 ≤ asserted.cfg.delayCount ∧ 3 ≤ asserted.cfg.delayCount ∧ 3 = asserted.cfg.delayCount := by decide

/-- `SeqAssertDrivesTheLevel`, `DelayIsExactlyDelayCountTicks`, `TransitionTwoTakesDelayCountPlusTwo`,
`MicroOperationContainsItsOutb`, `SequencerWritesOnlyItsTwoRegisters`. -/
theorem witness_configured : configured.cfg.WellFormed ∧ configured.edges = [] ∧ configured.AtSeq .pinHigh .phAssert ∧
    nextOf (exec .seqAssert configured) = some asserted ∧ sequencerWrite tiny .seqAssert = some (0x05, 0x20) ∧
    tap configured = some (0x05, 0x20) ∧ tap deasserted = some (0x04, 0x20) := by decide

/-- `SeqCfgConfiguresTheDirection`, both clauses, and `BlinkCycleIsThreeWrites` at `k = 0`. -/
theorem witness_unconfigured : (State.resetOf tiny).cfg.WellFormed ∧ (State.resetOf tiny).edges = [] ∧
    (State.resetOf tiny).AtSeq .pinUnconfigured .phAssert ∧
    nextOf (step { ticking with edges := [.rst] }) = some (State.resetOf tiny) ∧
    (nextOf (step { State.resetOf tinyOpen with edges := [.env 0x0655] })).map (·.seqState) = some .pinUnconfigured := by
  decide

/-- `SeqDeassertClearsTheLevels`, `DeassertIsAFullRegisterClear`. -/
theorem witness_ticked : ticked.cfg.WellFormed ∧ ticked.AtSeq .pinHigh .phDelay ∧ ticked.iter = ticked.cfg.delayCount ∧
    nextOf (exec .seqDeassert ticked) = some deasserted ∧ ticked.dir.getLsbD 5 = true := by decide

/-- `SeqLoopRepeatsTheDirectionWrite`, `BlinkCycleIsThreeWrites` at a later cycle, `RewritingTheSameValueIsAnEvent`
(last clause). -/
theorem witness_deasserted : deasserted.cfg.WellFormed ∧ deasserted.edges = [] ∧ deasserted.AtSeq .pinLow .phAssert ∧
    deasserted.dir = mask deasserted.cfg := by decide

/-- `RegisterWriteFrame`, `MicroOperationFrame`, `SequencerAdvanceTable`, `IterOnlyAssertAndTick`,
`ConfigurationNeverChanges`: every operation gives a next state somewhere, the `OUTB` rows from both issuers. -/
theorem witness_every_operation_runs :
    (nextOf (exec (.outbDir .env 0) ticking)).isSome ∧ (nextOf (exec (.outbData .seq 0) ticking)).isSome ∧
    (nextOf (exec (.outbUnmapped .env 0x06 0) ticking)).isSome ∧ (nextOf (exec .seqCfg (State.resetOf tiny))).isSome ∧
    (nextOf (exec .seqAssert configured)).isSome ∧ (nextOf (exec .seqTick ticking)).isSome ∧
    (nextOf (exec .seqDeassert ticked)).isSome ∧ (nextOf (exec .seqLoop deasserted)).isSome := by decide

/-- `ExactlyOneMicroOperationIsEnabled`, `OperationMapRowsDecode` (last clause), at both ends of the bound of `iter`. -/
theorem witness_legal : LegalSeq ticked ∧ ticked.iter ≤ ticked.cfg.delayCount ∧ LegalSeq asserted ∧ asserted.iter = 0 :=
  ⟨fun _ => rfl, by decide, fun _ => rfl, rfl⟩

/-- `ReservedSelectionIsRefused`, second clause. -/
theorem witness_illegal : ¬ LegalSeq (at_ tiny .pinLow .phDelay 0 0 0 []) := fun h => nomatch h rfl

/-- `ChangingThePinChangesOnlyTheMask`, `ResetValues` (last clause), `LedPinWaveform` at the first step of cycle 1. -/
theorem witness_pins : tiny.WellFormed ∧ 0 < 8 ∧ (5 : Fin 8).val = tiny.ledPin ∧ tiny.delayCount + 3 < 7 := by decide

/-- `StepKeepsTheOpenInvariant`, `IterOnlyAssertAndTick` (third clause), `EveryPossibleStepCompletes` with an ENV edge at
the widest word. -/
theorem witness_openInv :
    OpenInv { ticking with cfg := tinyOpen, edges := [.env 0xFFFF] } ∧ possibleEdge tinyOpen (.env 0xFFFF) = true ∧
    (nextOf (step { ticking with cfg := tinyOpen, edges := [.env 0xFFFF] })).isSome = true :=
  ⟨⟨by decide, by decide, fun _ => rfl, rfl, rfl, rfl⟩, by decide, by decide⟩

/-- `StepKeepsTheClosedInvariant`, `DeassertIsAFullRegisterClear` (second clause), `RegistersHoldTheirLatestWrite`. -/
theorem witness_closedInv : ClosedInv ticked ∧ (nextOf (step ticked)).isSome = true ∧
    ticked.dir = latestWrite ticked.trace ticked.cfg.dirAddr ticked.cfg.dirReset ∧
    ticked.data = latestWrite ticked.trace ticked.cfg.dataAddr ticked.cfg.dataReset :=
  ⟨⟨⟨by decide, by decide, fun _ => rfl, rfl, rfl, rfl⟩, rfl, rfl, rfl⟩, by decide, rfl, rfl⟩

/-- `ResetStepTakesResetValues`, with the reset held for a second edge. -/
theorem witness_reset_edges : ticking.cfg.WellFormed ∧ { ticking with edges := [.rst, .rst] }.edges = .rst :: [.rst] := by
  decide

/-- `IllFormedConfigurationsAreRefused`, second clause. -/
theorem witness_illFormed : ({ tiny with ledPin := 8 } : Config).WellFormed = False ∧
    ({ ticking with cfg := { tiny with ledPin := 8 } } : State).cfg = { tiny with ledPin := 8 } := by
  exact ⟨eq_false (by decide), rfl⟩

/-- `EachStepAppendsAtMostOneRecord`, `TapCarriesTheRecordedWrites`, `RegistersFollowTheWritePort`: a step of each
shape, and a tick where the tap is silent. -/
theorem witness_steps : (nextOf (step configured)).isSome ∧ (nextOf (step ticking)).isSome ∧
    sequencerOp ticking = some .seqTick ∧ (nextOf (step { ticking with edges := [.rst] })).isSome ∧
    (∀ rest, configured.edges ≠ .rst :: rest) :=
  ⟨by decide, by decide, by decide, by decide, fun _ h => nomatch h⟩

/-- `PinLevelsFollowTheRegisters`: a pin of each kind. -/
theorem witness_pin_kinds : (regs 0x30 0x20).dir.getLsbD 5 = true ∧ (regs 0x30 0x20).data.getLsbD 5 = true ∧
    (regs 0x30 0x20).data.getLsbD 4 = false ∧ (regs 0x30 0x20).dir.getLsbD 4 = true ∧
    (regs 0x30 0x20).dir.getLsbD 0 = false := by decide

/-- `SequencerIgnoresTheRegisters`: a step that goes on and one that is refused. -/
theorem witness_both_outcomes : (nextOf (step ticking)).isSome ∧
    refusalOf (step { ticking with edges := [.env 0] }) = some .noExternalWriter := by decide

/-- `ExternalWriterOnlyWritesRegisters`, both clauses, and `TraceIsUnaffectedByExternalWrites`. -/
theorem witness_env : 0x05 < 2 ^ tinyOpen.aw ∧ { ticking with edges := [.env (0x05 * 256 + (0xA1 : Byte).toNat)] }.edges =
      .env (0x05 * 256 + (0xA1 : Byte).toNat) :: [] ∧ tinyOpen.extWriters = true ∧ tiny.extWriters = false ∧
    ∀ e ∈ [Edge.env 0x04FF, .run, .env 0x0581, .run], e ≠ .rst ∧ possibleEdge tinyOpen e = true := by decide

end Sys2Proof.Tests
end

section
/-! The configuration of the block (00_scope section 6): nothing runs on an ill-formed one, and nothing changes it. -/

namespace Sys2Proof.Machine

/-- Outside the five conditions of 00_scope R11 the hardware does not exist. -/
theorem whenBuilt_of_not_wf {s : State} (k : Result) (h : ¬ s.cfg.WellFormed) :
    whenBuilt s k = .refused .illFormedConfig := if_neg h

theorem build_of_wf {c : Config} (h : c.WellFormed) : build c = .next (State.resetOf c) :=
  whenBuilt_of_wf (s := State.resetOf c) _ h

theorem build_of_not_wf {c : Config} (h : ¬ c.WellFormed) : build c = .refused .illFormedConfig :=
  whenBuilt_of_not_wf (s := State.resetOf c) _ h

/-- A step, of any kind, has a well-formed configuration under it. -/
theorem wellFormed_of_step {s t : State} (h : step s = .next t) : s.cfg.WellFormed := (step_next_cases h).1

/-- Every operation is made of updates that leave the configuration alone. -/
theorem exec_keeps_cfg {i : Instr} {s t : State} (h : exec i s = .next t) : t.cfg = s.cfg := by
  cases i with
  | outbDir => obtain ⟨-, rfl⟩ := execOutbDir_next_iff.1 h; simp
  | outbData => obtain ⟨-, rfl⟩ := execOutbData_next_iff.1 h; simp
  | outbUnmapped => obtain ⟨-, -, rfl⟩ := execOutbUnmapped_next_iff.1 h; simp
  | seqCfg => obtain ⟨-, -, rfl⟩ := execSeqCfg_next_iff.1 h; simp
  | seqAssert => obtain ⟨-, -, rfl⟩ := execSeqAssert_next_iff.1 h; simp
  | seqTick => obtain ⟨-, -, rfl⟩ := execSeqTick_next_iff.1 h; simp
  | seqDeassert => obtain ⟨-, -, rfl⟩ := execSeqDeassert_next_iff.1 h; simp
  | seqLoop => obtain ⟨-, -, rfl⟩ := execSeqLoop_next_iff.1 h; simp

/-- A reset step, an ENV write and a SEQ step each leave the configuration alone. -/
theorem step_keeps_cfg {s t : State} (h : step s = .next t) : t.cfg = s.cfg := by
  obtain ⟨-, ⟨rest, -, rfl⟩ | ⟨w, rest, -, -, -, rfl⟩ | ⟨rest, i, -, -, he⟩⟩ := step_next_cases h
  · simp
  · simp
  · simpa using exec_keeps_cfg he

/-- Settles O45: every operation and every step that gives a next state goes through the guard of 00_scope R11. -/
theorem illFormedConfigurationsAreRefused : Obligations.IllFormedConfigurationsAreRefused := by
  refine ⟨fun _ hwf => build_of_wf hwf, fun c hbad => ⟨build_of_not_wf hbad, ?_, ?_⟩⟩
  · rintro i s t rfl he
    exact hbad (wellFormed_of_exec he)
  · rintro s t rfl hs
    exact hbad (wellFormed_of_step hs)

/-- Settles O46, from the inversion lemma of each operation and of the step. -/
theorem configurationNeverChanges : Obligations.ConfigurationNeverChanges :=
  ⟨fun _ _ _ he => exec_keeps_cfg he, fun _ _ hs => step_keeps_cfg hs⟩

end Sys2Proof.Machine
end

section
/-! The pins (10_state R31, R32): what a pin shows, from its two register bits. -/

namespace Sys2Proof.Machine

/-- A driven pin shows its `DATA` bit (10_state R32). -/
theorem level_of_driven {s : State} {p : Fin 8} (h : s.dir.getLsbD p = true) :
    level s p = some (s.data.getLsbD p) := if_pos h

/-- An undriven pin has no level (10_state R32). -/
theorem level_of_undriven {s : State} {p : Fin 8} (h : s.dir.getLsbD p = false) : level s p = none :=
  if_neg (Bool.eq_false_iff.1 h)

/-- The levels are functions of the two registers alone. -/
theorem level_congr {s t : State} (hdir : s.dir = t.dir) (hdata : s.data = t.data) (p : Fin 8) :
    level s p = level t p := by
  unfold level pinOe pinOut
  rw [hdir, hdata]

/-- `OUTB.DIR` completes from either issuer (40 R91). -/
theorem exec_outbDir_of_wf {s : State} (issuer : Issuer) (v : Byte) (h : s.cfg.WellFormed) :
    exec (.outbDir issuer v) s = .next (writeDir v (recordWrite issuer s.cfg.dirAddr v s)) :=
  execOutbDir_next_iff.2 ⟨h, rfl⟩

/-- `OUTB.DATA` completes from either issuer (40 R92). -/
theorem exec_outbData_of_wf {s : State} (issuer : Issuer) (v : Byte) (h : s.cfg.WellFormed) :
    exec (.outbData issuer v) s = .next (writeData v (recordWrite issuer s.cfg.dataAddr v s)) :=
  execOutbData_next_iff.2 ⟨h, rfl⟩

/-- Settles O52: the data write keeps the pin undriven and its value stored until the direction write. -/
theorem pinLevelsFollowTheRegisters : Obligations.PinLevelsFollowTheRegisters := by
  refine ⟨fun s p => ⟨rfl, rfl, ?_, ?_, level_of_undriven⟩, ?_⟩
  · intro hdir hdata
    rw [level_of_driven hdir, hdata]
  · intro hdir hdata
    rw [level_of_driven hdir, hdata]
  · intro s issuer v d p hwf hundriven
    refine ⟨_, _, exec_outbData_of_wf issuer v hwf, level_of_undriven (by simpa using hundriven),
      exec_outbDir_of_wf issuer d (by simpa using hwf), fun hd => ?_⟩
    rw [level_of_driven (by simpa using hd)]
    simp

end Sys2Proof.Machine
end

section
/-! The delay counter (10_state R26): which operations move it. -/

namespace Sys2Proof.Machine

open Safety

/-- What `iter` holds after an operation, from what it held before (10_state R26). -/
def iterAfter (n : Nat) : Instr → Nat
  | .seqAssert => 0
  | .seqTick => n + 1
  | .seqCfg | .seqDeassert | .seqLoop | .outbDir _ _ | .outbData _ _ | .outbUnmapped _ _ _ => n

/-- Of every operation's updates, only those of `SEQ.ASSERT` and `SEQ.TICK` reach `iter`. -/
theorem exec_iter {i : Instr} {s t : State} (h : exec i s = .next t) : t.iter = iterAfter s.iter i := by
  cases i with
  | outbDir => obtain ⟨-, rfl⟩ := execOutbDir_next_iff.1 h; simp [iterAfter]
  | outbData => obtain ⟨-, rfl⟩ := execOutbData_next_iff.1 h; simp [iterAfter]
  | outbUnmapped => obtain ⟨-, -, rfl⟩ := execOutbUnmapped_next_iff.1 h; simp [iterAfter]
  | seqCfg => obtain ⟨-, -, rfl⟩ := execSeqCfg_next_iff.1 h; simp [iterAfter]
  | seqAssert => obtain ⟨-, -, rfl⟩ := execSeqAssert_next_iff.1 h; simp [iterAfter]
  | seqTick => obtain ⟨-, -, rfl⟩ := execSeqTick_next_iff.1 h; simp [iterAfter]
  | seqDeassert => obtain ⟨-, -, rfl⟩ := execSeqDeassert_next_iff.1 h; simp [iterAfter]
  | seqLoop => obtain ⟨-, -, rfl⟩ := execSeqLoop_next_iff.1 h; simp [iterAfter]

/-- `SEQ.DEASSERT` runs only at the full count. -/
theorem iter_eq_of_exec_seqDeassert {s t : State} (h : exec .seqDeassert s = .next t) :
    s.iter = s.cfg.delayCount := by
  obtain ⟨-, ⟨-, hfull⟩, -⟩ := execSeqDeassert_next_iff.1 h
  exact hfull

/-- `iter` fits in `CW` bits, because `DELAY_COUNT` does (00_scope R11). -/
theorem iter_lt_of_openInv {s : State} (h : OpenInv s) : s.iter < 2 ^ s.cfg.cw := by
  obtain ⟨-, -, -, -, hcount⟩ := h.built
  exact h.iterBound.trans_lt hcount

/-- Settles O27, from what each operation leaves in `iter` and the condition of `SEQ.DEASSERT`. -/
theorem iterOnlyAssertAndTick : Obligations.IterOnlyAssertAndTick := by
  refine ⟨fun i s t he => ?_, fun s t he => ?_, fun _ => iter_lt_of_openInv, fun _ _ => level_congr rfl rfl⟩
  · rw [exec_iter he]
    cases i <;> rfl
  · rw [exec_iter he]
    exact iter_eq_of_exec_seqDeassert he

end Sys2Proof.Machine
end

section
/-! The coming SEQ step (10_state R22, R39): which edges are one, what it performs, and what the trace tap carries. -/

namespace Sys2Proof.Machine

/-- A reset edge performs no micro-operation (70 R151). -/
theorem sequencerOp_of_rst {s : State} {rest : List Edge} (h : s.edges = .rst :: rest) : sequencerOp s = none := by
  simp [sequencerOp, fetch, h]

/-- An ENV edge performs no micro-operation (20_memory R65). -/
theorem sequencerOp_of_env {s : State} {w : Nat} {rest : List Edge} (h : s.edges = .env w :: rest) :
    sequencerOp s = none := by
  cases hx : s.cfg.extWriters <;> simp [sequencerOp, fetch, h, hx]

/-- With no input, or a run edge, SEQ performs what the selection word selects (10_state R22). -/
theorem sequencerOp_of_decode {s : State} {rest : List Edge} {i : Instr}
    (h : s.edges = [] ∧ rest = [] ∨ s.edges = .run :: rest)
    (hd : decode s.cfg .sequencer (selectionWord s) = .ok i) : sequencerOp s = some i := by
  obtain ⟨he, -⟩ | he := h <;> simp [sequencerOp, fetch, he, hd]

/-- With no input the step is the selected micro-operation. -/
theorem step_of_no_edges {s : State} {i : Instr} (h : s.edges = [])
    (hd : decode s.cfg .sequencer (selectionWord s) = .ok i) : step s = exec i s := by
  simp [step, fetch, h, hd]

/-- The tap copies the write of the coming micro-operation (10_state R39). -/
theorem tap_eq_bind (s : State) : tap s = (sequencerOp s).bind (sequencerWrite s.cfg) := by
  unfold tap
  cases sequencerOp s <;> rfl

/-- The four micro-operations with `wr_en = 1` (10_state R39). -/
theorem sequencerWrite_isSome_iff {c : Config} {i : Instr} :
    (sequencerWrite c i).isSome = true ↔ i ∈ [.seqCfg, .seqAssert, .seqDeassert, .seqLoop] := by
  cases i <;> simp [sequencerWrite]

/-- `tr_valid` is 1 exactly in the four writing steps (10_state R39). -/
theorem trValid_iff (s : State) :
    trValid s = true ↔ sequencerOp s ∈ [some .seqCfg, some .seqAssert, some .seqDeassert, some .seqLoop] := by
  rw [trValid, tap_eq_bind]
  cases sequencerOp s with
  | none => simp
  | some i => simpa using sequencerWrite_isSome_iff

theorem trValid_of_no_op {s : State} (h : sequencerOp s = none) : trValid s = false := by
  simp [trValid, tap_eq_bind, h]

/-- The records the harness makes of what the tap carries, numbered `n` (10_state R34, R39). -/
def recordsOf (n : Nat) (w : Option (Nat × Byte)) : List Record := w.toList.map fun p => ⟨p.1, p.2, n⟩

@[simp] theorem recordsOf_none (n : Nat) : recordsOf n none = [] := rfl
@[simp] theorem recordsOf_some (n a : Nat) (v : Byte) : recordsOf n (some (a, v)) = [⟨a, v, n⟩] := rfl

/-- A SEQ step records the write it drives, and nothing in a tick (10_state R34). -/
theorem sequencer_step_trace {s t : State} {i : Instr} (hd : decode s.cfg .sequencer (selectionWord s) = .ok i)
    (he : exec i s = .next t) : t.trace = s.trace ++ recordsOf s.seqno (sequencerWrite s.cfg i) := by
  obtain ⟨rfl, -, rfl⟩ | ⟨rfl, -, rfl⟩ | ⟨rfl, -, -, rfl⟩ | ⟨rfl, -, -, rfl⟩ | ⟨rfl, -, rfl⟩ := sequencer_cases hd he <;>
    simp [sequencerWrite]

/-- In every step but a reset step the trace gains what the tap carries: the write of a SEQ step, nothing in an
ENV step (10_state R39, 20_memory R65). -/
theorem step_trace {s t : State} (h : step s = .next t) (hrst : ∀ rest, s.edges ≠ .rst :: rest) :
    t.trace = s.trace ++ recordsOf s.seqno (tap s) := by
  obtain ⟨-, ⟨rest, hr, -⟩ | ⟨w, rest, henv, -, -, rfl⟩ | ⟨rest, i, hseq, hd, he⟩⟩ := step_next_cases h
  · exact absurd hr (hrst rest)
  · simp [tap_eq_bind, sequencerOp_of_env henv]
  · rw [tap_eq_bind, sequencerOp_of_decode hseq hd]
    exact sequencer_step_trace (s := setEdges rest s) hd he

/-- Settles O48: the tap is the coming micro-operation's write, which is what `exec` appends. -/
theorem tapCarriesTheRecordedWrites : Obligations.TapCarriesTheRecordedWrites := by
  refine ⟨trValid_iff, fun s htick => ?_, fun s rest hr => trValid_of_no_op (sequencerOp_of_rst hr),
    fun _ _ => step_trace⟩
  rw [← Bool.not_eq_true, trValid_iff, htick]
  decide

end Sys2Proof.Machine
end

section
/-! The reset state and the first step of a run (10_state R41). -/

namespace Sys2Proof.Machine

/-- `MASK` has bit `LED_PIN` and no other (30_encoding R75). -/
theorem mask_getLsbD {c : Config} (h : c.ledPin < 8) (k : Nat) : (mask c).getLsbD k = decide (k = c.ledPin) := by
  have hpow : mask c = BitVec.twoPow 8 c.ledPin := (BitVec.twoPow_eq 8 c.ledPin).symm
  rw [hpow, BitVec.getLsbD_twoPow]
  simp [h, eq_comm]

/-- The reset state selects `SEQ.CFG`, whatever `DELAY_COUNT` is (42 R109). -/
theorem decode_selectionWord_resetOf (c : Config) :
    decode c .sequencer (selectionWord (State.resetOf c)) = .ok .seqCfg := by
  simp [decode_selectionWord]

theorem sequencerOp_resetOf (c : Config) : sequencerOp (State.resetOf c) = some .seqCfg :=
  sequencerOp_of_decode (.inl ⟨rfl, rfl⟩) (decode_selectionWord_resetOf c)

/-- The first step of a run writes `MASK` to `DIR` (42 R109). -/
theorem step_resetOf {c : Config} (h : c.WellFormed) :
    step (State.resetOf c) = .next (setSeq .pinHigh .phAssert
      (writeDir (mask c) (appendRecord c.dirAddr (mask c) (State.resetOf c)))) := by
  rw [step_of_no_edges rfl (decode_selectionWord_resetOf c)]
  exact execSeqCfg_next_iff.2 ⟨h, ⟨rfl, rfl⟩, rfl⟩

/-- Settles O41: the first step makes `LED_PIN` an output and leaves `DATA` at `DATA_RESET`. -/
theorem resetValues : Obligations.ResetValues := by
  refine ⟨fun c => ⟨rfl, rfl, rfl, rfl, rfl, rfl, rfl, rfl, rfl, sequencerOp_resetOf c⟩, rfl,
    fun c p hwf hp => ⟨_, step_resetOf hwf, ?_⟩⟩
  have hdriven : (mask c).getLsbD p = true := by simp [mask_getLsbD hwf.1, hp]
  exact level_of_driven hdriven

end Sys2Proof.Machine
end

section
/-! Writes of the value a register already holds (20_memory R55): the register effect is the identity, so only the
record is left. -/

namespace Sys2Proof.Machine

/-- Writing to `DIR` what it holds is no change of state (20_memory R55). -/
theorem writeDir_of_dir_eq {v : Byte} {s : State} (h : s.dir = v) : writeDir v s = s := by
  subst h
  rfl

/-- Writing to `DATA` what it holds is no change of state (20_memory R55). -/
theorem writeData_of_data_eq {v : Byte} {s : State} (h : s.data = v) : writeData v s = s := by
  subst h
  rfl

/-- SEQ's `OUTB.DIR` of the value held leaves its record and nothing else (20_memory R55, 40 R91). -/
theorem exec_outbDir_seq_of_dir_eq {v : Byte} {s : State} (hwf : s.cfg.WellFormed) (hv : s.dir = v) :
    exec (.outbDir .seq v) s = .next (appendRecord s.cfg.dirAddr v s) := by
  rw [exec_outbDir_of_wf .seq v hwf, recordWrite_seq, writeDir_of_dir_eq (by simpa using hv)]

/-- SEQ's `OUTB.DATA` of the value held leaves its record and nothing else (20_memory R55, 40 R92). -/
theorem exec_outbData_seq_of_data_eq {v : Byte} {s : State} (hwf : s.cfg.WellFormed) (hv : s.data = v) :
    exec (.outbData .seq v) s = .next (appendRecord s.cfg.dataAddr v s) := by
  rw [exec_outbData_of_wf .seq v hwf, recordWrite_seq, writeData_of_data_eq (by simpa using hv)]

/-- `SEQ.LOOP` completes where it is enabled (42 R112). -/
theorem exec_seqLoop_of_atSeq {s : State} (hwf : s.cfg.WellFormed) (hat : s.AtSeq .pinLow .phAssert) :
    exec .seqLoop s = .next (setSeq .pinHigh .phAssert
      (writeDir (mask s.cfg) (appendRecord s.cfg.dirAddr (mask s.cfg) s))) :=
  execSeqLoop_next_iff.2 ⟨hwf, hat, rfl⟩

/-- `SEQ.LOOP` where `DIR` already holds `MASK` leaves its record and its own move of `seq` (20_memory R55, 42 R112). -/
theorem exec_seqLoop_of_dir_eq_mask {s : State} (hwf : s.cfg.WellFormed) (hat : s.AtSeq .pinLow .phAssert)
    (hdir : s.dir = mask s.cfg) :
    exec .seqLoop s = .next (setSeq .pinHigh .phAssert (appendRecord s.cfg.dirAddr s.dir s)) := by
  rw [exec_seqLoop_of_atSeq hwf hat, writeDir_of_dir_eq (by simpa using hdir), hdir]

/-- Settles O16: each of the three writes is its record, the register effect being the identity; `SEQ.LOOP` leaves
phase 0 as it found it. -/
theorem rewritingTheSameValueIsAnEvent : Obligations.RewritingTheSameValueIsAnEvent := by
  refine fun s hwf => ⟨exec_outbDir_seq_of_dir_eq hwf rfl, exec_outbData_seq_of_data_eq hwf rfl,
    fun hlow hphase hdir => ?_⟩
  rw [exec_seqLoop_of_dir_eq_mask hwf ⟨hlow, hphase⟩ hdir, setSeq, ← hphase]
  rfl

end Sys2Proof.Machine
end

section
/-! The words (30_encoding R71, R75, R78, R79): what the masks of the operation map select, and what a reserved
selection code does. -/

namespace Sys2Proof

/-- The mask of the W rows keeps the address field of a 16-bit word (30_encoding R71, R78). -/
theorem and_addressMask {w : Nat} (h : w < 2 ^ 16) : w &&& 0xFF00 = wordAddr w * 256 := by
  have hhigh : (w &&& 0xFF00) / 2 ^ 8 = w / 2 ^ 8 % 2 ^ 8 := by
    rw [Nat.and_div_two_pow]
    exact Nat.and_two_pow_sub_one_eq_mod _ 8
  have hlow : (w &&& 0xFF00) % 2 ^ 8 = 0 := by
    rw [Nat.and_mod_two_pow]
    exact Nat.and_zero _
  unfold wordAddr
  omega

/-- A W row's match compares the address field (30_encoding R78). -/
theorem and_addressMask_eq_iff {w : Nat} (a : Nat) (h : w < 2 ^ 16) : w &&& 0xFF00 = a * 256 ↔ wordAddr w = a := by
  rw [and_addressMask h]
  omega

/-- A W word in range is the operation its address selects (30_encoding R77). -/
theorem decodeTransaction_of_lt {c : Config} {w : Nat} (issuer : Issuer) (h : w < 2 ^ (c.aw + 8)) :
    decodeTransaction c issuer w =
      if wordAddr w = c.dirAddr then .ok (.outbDir issuer (wordValue w))
      else if wordAddr w = c.dataAddr then .ok (.outbData issuer (wordValue w))
      else .ok (.outbUnmapped issuer (wordAddr w) (wordValue w)) :=
  if_neg (Nat.not_le_of_lt h)

/-- The S rows do not overlap: a word that matches a row is that row's operation, whatever the rows above it
(30_encoding R78). -/
theorem decodeSelection_of_row :
    ∀ row ∈ selectionRows, ∀ w < 16, w &&& row.mask = row.pattern → decodeSelection w = .ok row.op := by
  decide

/-- No S row matches a code whose low three bits are reserved, whatever `z` is (30_encoding R79). -/
theorem decodeSelection_of_reserved :
    ∀ w < 16, w % 8 ∈ [0b011, 0b100, 0b110, 0b111] → decodeSelection w = .error .reservedSelection := by
  decide

namespace Machine

open Safety

/-- A state whose `seq` is not legal selects nothing (30_encoding R79). -/
theorem decode_selectionWord_of_not_legalSeq {s : State} (h : ¬ LegalSeq s) :
    decode s.cfg .sequencer (selectionWord s) = .error .reservedSelection := by
  obtain ⟨hphase, hstate⟩ := Classical.not_imp.1 h
  rw [decode_selectionWord, hphase]
  cases hs : s.seqState with
  | pinUnconfigured => rfl
  | pinHigh => exact absurd hs hstate
  | pinLow => rfl

/-- With no input, a state that selects nothing has no next state (30_encoding R79). -/
theorem step_of_decode_error {s : State} {why : DecodeError} (h : s.edges = [])
    (hd : decode s.cfg .sequencer (selectionWord s) = .error why) : step s = .refused (.undecodable why) := by
  simp [step, fetch, h, hd]

/-- With no input, SEQ performs nothing in a state that selects nothing (30_encoding R79). -/
theorem sequencerOp_of_decode_error {s : State} {why : DecodeError} (h : s.edges = [])
    (hd : decode s.cfg .sequencer (selectionWord s) = .error why) : sequencerOp s = none := by
  simp [sequencerOp, fetch, h, hd]

/-- With no input, the write port carries what SEQ drives (10_state R36). -/
theorem portWrite_of_no_edges {s : State} (h : s.edges = []) : portWrite s = tap s := by
  simp [portWrite, fetch, h]

/-- In phase 0 every `seq.state` is legal (10_state R24). -/
theorem legalSeq_of_phAssert {s : State} (h : s.seqPhase = .phAssert) : LegalSeq s :=
  fun hdelay => nomatch h.symm.trans hdelay

/-- In `PIN_HIGH` both phases are legal (10_state R24). -/
theorem legalSeq_of_pinHigh {s : State} (h : s.seqState = .pinHigh) : LegalSeq s := fun _ => h

/-- Legality is a property of `seq` alone. -/
theorem legalSeq_congr {s t : State} (hstate : t.seqState = s.seqState) (hphase : t.seqPhase = s.seqPhase) :
    LegalSeq t ↔ LegalSeq s := by
  rw [LegalSeq, LegalSeq, hstate, hphase]

/-- A SEQ step lands in `PIN_HIGH`, or in phase 0: only `SEQ.DEASSERT` leaves `PIN_HIGH` (10_state R22). -/
theorem legalSeq_of_sequencer_step {s t : State} {i : Instr}
    (hd : decode s.cfg .sequencer (selectionWord s) = .ok i) (he : exec i s = .next t) : LegalSeq t := by
  obtain ⟨-, -, rfl⟩ | ⟨-, -, rfl⟩ | ⟨-, ⟨hhigh, -⟩, -, rfl⟩ | ⟨-, -, -, rfl⟩ | ⟨-, -, rfl⟩ := sequencer_cases hd he
  · exact legalSeq_of_pinHigh rfl
  · exact legalSeq_of_pinHigh rfl
  · exact legalSeq_of_pinHigh hhigh
  · exact legalSeq_of_phAssert rfl
  · exact legalSeq_of_pinHigh rfl

/-- Every step keeps `seq` legal: a reset step makes it so, and an ENV write does not touch it (30_encoding R79). -/
theorem step_keeps_legalSeq {s t : State} (hlegal : LegalSeq s) (h : step s = .next t) : LegalSeq t := by
  obtain ⟨-, ⟨rest, -, rfl⟩ | ⟨w, rest, -, -, -, rfl⟩ | ⟨rest, i, -, hd, he⟩⟩ := step_next_cases h
  · exact legalSeq_of_phAssert rfl
  · exact (legalSeq_congr (by simp) (by simp)).2 hlegal
  · exact legalSeq_of_sequencer_step (s := setEdges rest s) hd he

/-- `MASK` is the power of two of `LED_PIN` (30_encoding R75). -/
theorem mask_toNat {c : Config} (h : c.ledPin < 8) : (mask c).toNat = 2 ^ c.ledPin := by
  have hpow : mask c = BitVec.twoPow 8 c.ledPin := (BitVec.twoPow_eq 8 c.ledPin).symm
  rw [hpow, BitVec.toNat_twoPow_of_lt h]

/-- Settles O3: the W rows by the address field their mask keeps, the S rows one by one, and the selection word by
the table of 10_state R22 without its two reserved pairs. -/
theorem operationMapRowsDecode : Obligations.OperationMapRowsDecode := by
  refine ⟨fun issuer w hw => ?_, fun c w hw => ⟨?_, ?_, ?_, ?_, ?_⟩, fun s hlegal => ?_⟩
  · simp only [and_addressMask_eq_iff 4 hw, and_addressMask_eq_iff 5 hw]
    exact decodeTransaction_of_lt (c := Config.reference) issuer hw
  · exact decodeSelection_of_row ⟨0x7, 0x0, .seqCfg⟩ (by decide) w hw
  · exact decodeSelection_of_row ⟨0x7, 0x1, .seqAssert⟩ (by decide) w hw
  · exact decodeSelection_of_row ⟨0xF, 0x5, .seqTick⟩ (by decide) w hw
  · exact decodeSelection_of_row ⟨0xF, 0xD, .seqDeassert⟩ (by decide) w hw
  · exact decodeSelection_of_row ⟨0x7, 0x2, .seqLoop⟩ (by decide) w hw
  · rw [decode_selectionWord]
    cases hphase : s.seqPhase with
    | phAssert => cases s.seqState <;> rfl
    | phDelay =>
      rw [hlegal hphase]
      exact (apply_ite Except.ok _ _ _).symm

/-- Settles O5: no row matches a reserved code, so such a state performs nothing; no step makes one. -/
theorem reservedSelectionIsRefused : Obligations.ReservedSelectionIsRefused := by
  refine ⟨fun _ => decodeSelection_of_reserved, fun s hedges hillegal => ?_, fun _ => legalSeq_of_phAssert rfl,
    fun _ _ => step_keeps_legalSeq⟩
  have hreserved := decode_selectionWord_of_not_legalSeq hillegal
  refine ⟨step_of_decode_error hedges hreserved, ?_⟩
  rw [portWrite_of_no_edges hedges, tap_eq_bind, sequencerOp_of_decode_error hedges hreserved]
  rfl

/-- Settles O1, from the laws of the two fields; the three reference words are evaluated. -/
theorem writeWordIsAddressThenValue : Obligations.WriteWordIsAddressThenValue :=
  ⟨fun _ a v ha => ⟨transactionWord_lt v ha, wordAddr_transactionWord a v, wordValue_transactionWord a v⟩,
    transactionWord_parts, fun _ => ⟨rfl, rfl, rfl⟩⟩

/-- Settles O10: a shift of 1 by less than the width is a power of two, which has one bit. -/
theorem maskIsTheLedPinBit : Obligations.MaskIsTheLedPinBit :=
  fun _ hpin => ⟨mask_toNat hpin, mask_getLsbD hpin⟩

end Machine

end Sys2Proof
end

section
/-! The register write family (40 R90 to R93): a transaction word decodes to the `OUTB` of its address, and that `OUTB`
completes as the common part and the register effect. -/

namespace Sys2Proof.Machine

/-- A transaction word whose address is in the space decodes by that address, with its value (30_encoding R77). -/
theorem decode_transactionWord {c : Config} {a : Nat} (issuer : Issuer) (v : Byte) (ha : a < 2 ^ c.aw) :
    decode c (.writePort issuer) (transactionWord a v) =
      .ok (if a = c.dirAddr then .outbDir issuer v
        else if a = c.dataAddr then .outbData issuer v
        else .outbUnmapped issuer a v) :=
  decodeTransaction_ok_iff.2
    ⟨transactionWord_lt v ha, by rw [wordAddr_transactionWord, wordValue_transactionWord]⟩

/-- The word with address `DIR_ADDR` is `OUTB.DIR` (40 R91). -/
theorem decode_transactionWord_dirAddr {c : Config} (issuer : Issuer) (v : Byte) (h : c.WellFormed) :
    decode c (.writePort issuer) (transactionWord c.dirAddr v) = .ok (.outbDir issuer v) := by
  obtain ⟨-, hdir, -⟩ := h
  rw [decode_transactionWord issuer v hdir, if_pos rfl]

/-- The word with address `DATA_ADDR` is `OUTB.DATA`, the two registers having distinct addresses (40 R92). -/
theorem decode_transactionWord_dataAddr {c : Config} (issuer : Issuer) (v : Byte) (h : c.WellFormed) :
    decode c (.writePort issuer) (transactionWord c.dataAddr v) = .ok (.outbData issuer v) := by
  obtain ⟨-, -, hdata, hne, -⟩ := h
  rw [decode_transactionWord issuer v hdata, if_neg hne.symm, if_pos rfl]

/-- A word with any other address of the space is `OUTB.UNMAPPED` (40 R93). -/
theorem decode_transactionWord_unmapped {c : Config} {a : Nat} (issuer : Issuer) (v : Byte) (h : c.Unmapped a) :
    decode c (.writePort issuer) (transactionWord a v) = .ok (.outbUnmapped issuer a v) := by
  obtain ⟨ha, hdir, hdata⟩ := h
  rw [decode_transactionWord issuer v ha, if_neg hdir, if_neg hdata]

/-- `OUTB.UNMAPPED` completes at every unmapped address, from either issuer (40 R93). -/
theorem exec_outbUnmapped_of_unmapped {s : State} {a : Nat} (issuer : Issuer) (v : Byte) (hwf : s.cfg.WellFormed)
    (ha : s.cfg.Unmapped a) : exec (.outbUnmapped issuer a v) s = .next (recordWrite issuer a v s) :=
  execOutbUnmapped_next_iff.2 ⟨hwf, ha, rfl⟩

/-- Each class of address decodes to an operation that completes (40 R90: a write cannot fail). -/
theorem exists_exec_of_transactionWord {s : State} {a : Nat} (issuer : Issuer) (v : Byte) (hwf : s.cfg.WellFormed)
    (ha : a < 2 ^ s.cfg.aw) :
    ∃ i t, decode s.cfg (.writePort issuer) (transactionWord a v) = .ok i ∧ exec i s = .next t := by
  by_cases hdir : a = s.cfg.dirAddr
  · subst hdir
    exact ⟨_, _, decode_transactionWord_dirAddr issuer v hwf, exec_outbDir_of_wf issuer v hwf⟩
  by_cases hdata : a = s.cfg.dataAddr
  · subst hdata
    exact ⟨_, _, decode_transactionWord_dataAddr issuer v hwf, exec_outbData_of_wf issuer v hwf⟩
  have hunmapped : s.cfg.Unmapped a := ⟨ha, hdir, hdata⟩
  exact ⟨_, _, decode_transactionWord_unmapped issuer v hunmapped, exec_outbUnmapped_of_unmapped issuer v hwf hunmapped⟩

/-- The level of a pin is its `DATA` bit where its `DIR` bit is 1, and none elsewhere (10_state R32). -/
theorem level_eq_ite (s : State) (p : Fin 8) :
    level s p = if s.dir.getLsbD p then some (s.data.getLsbD p) else none := rfl

/-- Settles O11: whatever the address, the decoded operation completes as `outb`, whose fields are those of the record
and of the register effect. -/
theorem outbIsOneRecordAndOneRegister : Obligations.OutbIsOneRecordAndOneRegister := by
  intro s issuer a v hwf ha
  obtain ⟨i, t, hd, he⟩ := exists_exec_of_transactionWord issuer v hwf ha
  obtain ⟨-, ht⟩ := exec_of_transaction hd he
  rw [wordAddr_transactionWord, wordValue_transactionWord] at ht
  subst ht
  obtain ⟨-, -, -, hne, -⟩ := hwf
  refine ⟨i, _, hd, he, ?trace, ?seqno, ?dir, ?data, ?_, ?_, ?_, ?_, ?_⟩
  case trace => cases issuer <;> simp [outb]
  case seqno => cases issuer <;> simp [outb]
  case dir => simp [outb, storeByte_dir]
  case data => simp [outb, storeByte_data, hne]
  all_goals simp [outb]

/-- Settles O12: `DIR` takes the value, and the pins read the new `DIR` and the old `DATA`. -/
theorem outbDirReplacesDirection : Obligations.OutbDirReplacesDirection := by
  refine fun s issuer v hwf =>
    ⟨decode_transactionWord_dirAddr issuer v hwf, _, exec_outbDir_of_wf issuer v hwf, ?_, fun p => ?_⟩
  · cases issuer <;> rfl
  · rw [level_eq_ite, writeDir_dir, writeDir_data, recordWrite_data]

/-- Settles O13: `DATA` takes the value with no look at `DIR`, and the pins read the old `DIR` and the new `DATA`. -/
theorem outbDataReplacesLevels : Obligations.OutbDataReplacesLevels := by
  refine fun s issuer v hwf =>
    ⟨decode_transactionWord_dataAddr issuer v hwf, _, exec_outbData_of_wf issuer v hwf, ?_, fun p => ?_⟩
  · cases issuer <;> rfl
  · rw [level_eq_ite, writeData_dir, writeData_data, recordWrite_dir]

/-- Settles O14: only the common part acts, and it touches neither register, so no pin moves. -/
theorem outbUnmappedChangesNoRegister : Obligations.OutbUnmappedChangesNoRegister := by
  intro s issuer a v hwf ha hdir hdata
  have hunmapped : s.cfg.Unmapped a := ⟨ha, hdir, hdata⟩
  refine ⟨decode_transactionWord_unmapped issuer v hunmapped, _, exec_outbUnmapped_of_unmapped issuer v hwf hunmapped,
    ?_, fun p => ?_⟩
  · cases issuer <;> rfl
  · exact level_congr (recordWrite_dir issuer a v s) (recordWrite_data issuer a v s) p

end Sys2Proof.Machine
end

section
/-! The delay (41 R100, R101, R105): what SEQ selects in (`PIN_HIGH`, 1), and what the ticks of a delay do together. -/

namespace Sys2Proof.Machine

open Safety

/-- A later count replaces an earlier one. -/
@[simp] theorem setIter_setIter (m n : Nat) (s : State) : setIter m (setIter n s) = setIter m s := rfl

/-- A running delay selects `SEQ.TICK` (41 R101). -/
theorem decode_selectionWord_of_iter_lt {s : State} (hat : s.AtSeq .pinHigh .phDelay)
    (hlt : s.iter < s.cfg.delayCount) : decode s.cfg .sequencer (selectionWord s) = .ok .seqTick := by
  obtain ⟨hstate, hphase⟩ := hat
  rw [decode_selectionWord, hstate, hphase]
  exact if_neg hlt.ne

/-- A delay at its full count selects `SEQ.DEASSERT` (42 R111). -/
theorem decode_selectionWord_of_iter_eq {s : State} (hat : s.AtSeq .pinHigh .phDelay)
    (hfull : s.iter = s.cfg.delayCount) : decode s.cfg .sequencer (selectionWord s) = .ok .seqDeassert := by
  obtain ⟨hstate, hphase⟩ := hat
  rw [decode_selectionWord, hstate, hphase]
  exact if_pos hfull

/-- The selection word of a running delay: `z = 0`, phase 1, state `01` (30_encoding R72 to R74). -/
theorem selectionWord_of_iter_lt {s : State} (hat : s.AtSeq .pinHigh .phDelay)
    (hlt : s.iter < s.cfg.delayCount) : selectionWord s = 0b0101 := by
  obtain ⟨hstate, hphase⟩ := hat
  have hz : comparator s = false := decide_eq_false hlt.ne
  rw [selectionWord, hz, hstate, hphase]
  rfl

/-- `SEQ.TICK` completes in a running delay and moves only `iter` (41 R101). -/
theorem exec_seqTick_of_iter_lt {s : State} (hwf : s.cfg.WellFormed) (hat : s.AtSeq .pinHigh .phDelay)
    (hlt : s.iter < s.cfg.delayCount) : exec .seqTick s = .next (setIter (s.iter + 1) s) :=
  execSeqTick_next_iff.2 ⟨hwf, ⟨hat, hlt⟩, rfl⟩

/-- With no input, the step of a running delay is a tick (41 R101). -/
theorem step_of_iter_lt {s : State} (hwf : s.cfg.WellFormed) (hedges : s.edges = [])
    (hat : s.AtSeq .pinHigh .phDelay) (hlt : s.iter < s.cfg.delayCount) :
    step s = .next (setIter (s.iter + 1) s) := by
  rw [step_of_no_edges hedges (decode_selectionWord_of_iter_lt hat hlt), exec_seqTick_of_iter_lt hwf hat hlt]

/-- `n` edges of a delay that has `n` iterations left count `n` of them (41 R100). -/
theorem runFor_of_delay {n : Nat} {s : State} (hwf : s.cfg.WellFormed) (hedges : s.edges = [])
    (hat : s.AtSeq .pinHigh .phDelay) (hn : s.iter + n ≤ s.cfg.delayCount) :
    runFor n s = .next (setIter (s.iter + n) s) := by
  induction n with
  | zero => rfl
  | succ n ih =>
    have hrun := ih (Nat.le_of_succ_le hn)
    rw [runFor_succ_of hrun]
    exact step_of_iter_lt (s := setIter (s.iter + n) s) hwf hedges hat hn

/-- A list goes on from the state its first operation gives. -/
theorem execList_cons_of_exec {i : Instr} {s t : State} (rest : List Instr) (h : exec i s = .next t) :
    execList (i :: rest) s = execList rest t := by
  rw [execList, h]

/-- `SPIN_DELAY n` in a delay that has `n` iterations left counts `n` of them (30_encoding R83 (b), 41 R100). -/
theorem execList_spinDelay {n : Nat} {s : State} (hwf : s.cfg.WellFormed) (hat : s.AtSeq .pinHigh .phDelay)
    (hn : s.iter + n ≤ s.cfg.delayCount) : execList (spinDelay n) s = .next (setIter (s.iter + n) s) := by
  induction n generalizing s with
  | zero => rfl
  | succ n ih =>
    have htick := exec_seqTick_of_iter_lt hwf hat (by omega)
    have hrest := ih (s := setIter (s.iter + 1) s) hwf hat (by rw [setIter_iter, setIter_cfg]; omega)
    rw [setIter_iter, Nat.add_right_comm] at hrest
    exact (execList_cons_of_exec (spinDelay n) htick).trans hrest

/-- `SEQ.ASSERT` enters the delay with nothing counted (42 R110). -/
theorem exec_seqAssert_enters_delay {s t : State} (h : exec .seqAssert s = .next t) :
    t.AtSeq .pinHigh .phDelay ∧ t.iter = 0 := by
  obtain ⟨-, -, rfl⟩ := execSeqAssert_next_iff.1 h
  exact ⟨⟨rfl, rfl⟩, rfl⟩

/-- Settles O18, from the count of a delay at `iter = 0`, as edges and as a list. -/
theorem spinDelayOnlyCounts : Obligations.SpinDelayOnlyCounts := by
  refine ⟨fun s n hwf hedges hstate hphase hzero hn => ?_, fun s t he => ?_⟩
  · have hat : s.AtSeq .pinHigh .phDelay := ⟨hstate, hphase⟩
    have hcount : s.iter + n = n := by omega
    have hrun := runFor_of_delay (n := n) hwf hedges hat (by omega)
    have hlist := execList_spinDelay (n := n) hwf hat (by omega)
    rw [hcount] at hrun hlist
    exact ⟨hrun, hlist, fun hfull => sequencerOp_of_decode (s := setIter n s) (.inl ⟨hedges, rfl⟩)
      (decode_selectionWord_of_iter_eq hat hfull)⟩
  · obtain ⟨⟨hstate, hphase⟩, hiter⟩ := exec_seqAssert_enters_delay he
    exact ⟨hstate, hphase, hiter⟩

/-- Settles O20: of the three kinds of step, an ENV write leaves SEQ alone, and the only micro-operation a running
delay selects is the tick. -/
theorem onlyResetCutsADelay : Obligations.OnlyResetCutsADelay := by
  intro s t hstate hphase hlt hstep
  obtain ⟨-, ⟨rest, hrst, -⟩ | ⟨w, rest, henv, -, -, rfl⟩ | ⟨rest, i, hseq, hd, he⟩⟩ := step_next_cases hstep
  · exact .inl ⟨rest, hrst⟩
  · exact .inr ⟨by simpa using hstate, by simpa using hphase, .inl ⟨w, rest, henv, by simp⟩⟩
  · cases hd.symm.trans (decode_selectionWord_of_iter_lt ⟨hstate, hphase⟩ hlt)
    obtain ⟨-, -, rfl⟩ := execSeqTick_next_iff.1 he
    exact .inr ⟨hstate, hphase, .inr ⟨hseq.imp And.left fun hrun => ⟨rest, hrun⟩, rfl⟩⟩

/-- Settles O17: the word is what a running delay selects, and a tick drives no write; the bound is that of
`DELAY_COUNT` (00_scope R11). -/
theorem seqTickCountsOneIteration : Obligations.SeqTickCountsOneIteration := by
  intro s hwf hstate hphase hlt
  have hat : s.AtSeq .pinHigh .phDelay := ⟨hstate, hphase⟩
  have hsel := selectionWord_of_iter_lt hat hlt
  have hdecode := decode_selectionWord_of_iter_lt hat hlt
  have ⟨_, _, _, _, hcount⟩ := hwf
  refine ⟨hsel, hsel ▸ hdecode, exec_seqTick_of_iter_lt hwf hat hlt, hlt, Nat.lt_of_le_of_lt hlt hcount,
    fun hedges => ?_⟩
  rw [trValid, tap_eq_bind, sequencerOp_of_decode (.inl ⟨hedges, rfl⟩) hdecode]
  rfl

end Sys2Proof.Machine
end

section
/-! The micro-operations that write (42 R109 to R112): the selection word of each place of the sequence, and what the
operation it selects completes with. -/

namespace Sys2Proof.Machine

open Safety

/-- (`PIN_UNCONFIGURED`, 0) selects `SEQ.CFG`, whatever `z` is (42 R109). -/
theorem decode_selectionWord_of_unconfigured {s : State} (hat : s.AtSeq .pinUnconfigured .phAssert) :
    decode s.cfg .sequencer (selectionWord s) = .ok .seqCfg := by
  obtain ⟨hstate, hphase⟩ := hat
  rw [decode_selectionWord, hstate, hphase]

/-- (`PIN_HIGH`, 0) selects `SEQ.ASSERT`, whatever `z` is (42 R110). -/
theorem decode_selectionWord_of_assertDue {s : State} (hat : s.AtSeq .pinHigh .phAssert) :
    decode s.cfg .sequencer (selectionWord s) = .ok .seqAssert := by
  obtain ⟨hstate, hphase⟩ := hat
  rw [decode_selectionWord, hstate, hphase]

/-- (`PIN_LOW`, 0) selects `SEQ.LOOP`, whatever `z` is (42 R112). -/
theorem decode_selectionWord_of_pinLow {s : State} (hat : s.AtSeq .pinLow .phAssert) :
    decode s.cfg .sequencer (selectionWord s) = .ok .seqLoop := by
  obtain ⟨hstate, hphase⟩ := hat
  rw [decode_selectionWord, hstate, hphase]

/-- The selection word of a delay at its full count: `z = 1`, phase 1, state `01` (30_encoding R72 to R74). -/
theorem selectionWord_of_iter_eq {s : State} (hat : s.AtSeq .pinHigh .phDelay)
    (hfull : s.iter = s.cfg.delayCount) : selectionWord s = 0b1101 := by
  obtain ⟨hstate, hphase⟩ := hat
  have hz : comparator s = true := decide_eq_true hfull
  rw [selectionWord, hz, hstate, hphase]
  rfl

/-- `SEQ.CFG` completes where it is enabled (42 R109). -/
theorem exec_seqCfg_of_atSeq {s : State} (hwf : s.cfg.WellFormed) (hat : s.AtSeq .pinUnconfigured .phAssert) :
    exec .seqCfg s = .next (setSeq .pinHigh .phAssert
      (writeDir (mask s.cfg) (appendRecord s.cfg.dirAddr (mask s.cfg) s))) :=
  execSeqCfg_next_iff.2 ⟨hwf, hat, rfl⟩

/-- `SEQ.ASSERT` completes where it is enabled (42 R110). -/
theorem exec_seqAssert_of_atSeq {s : State} (hwf : s.cfg.WellFormed) (hat : s.AtSeq .pinHigh .phAssert) :
    exec .seqAssert s = .next (setSeq .pinHigh .phDelay (setIter 0
      (writeData (mask s.cfg) (appendRecord s.cfg.dataAddr (mask s.cfg) s)))) :=
  execSeqAssert_next_iff.2 ⟨hwf, hat, rfl⟩

/-- `SEQ.DEASSERT` completes at the full count (42 R111). -/
theorem exec_seqDeassert_of_iter_eq {s : State} (hwf : s.cfg.WellFormed) (hat : s.AtSeq .pinHigh .phDelay)
    (hfull : s.iter = s.cfg.delayCount) :
    exec .seqDeassert s = .next (setSeq .pinLow .phAssert
      (writeData deassertValue (appendRecord s.cfg.dataAddr deassertValue s))) :=
  execSeqDeassert_next_iff.2 ⟨hwf, ⟨hat, hfull⟩, rfl⟩

/-- No micro-operation leads to `PIN_UNCONFIGURED` (10_state R22, 42 R109). -/
theorem sequencer_step_leaves_unconfigured {s t : State} {i : Instr}
    (hd : decode s.cfg .sequencer (selectionWord s) = .ok i) (he : exec i s = .next t) :
    t.seqState ≠ .pinUnconfigured := by
  obtain ⟨-, -, rfl⟩ | ⟨-, -, rfl⟩ | ⟨-, ⟨hhigh, -⟩, -, rfl⟩ | ⟨-, -, -, rfl⟩ | ⟨-, -, rfl⟩ := sequencer_cases hd he
  · simp
  · simp
  · simp [hhigh]
  · simp
  · simp

/-- Settles O21: the operation is enabled in its place whatever `z` is; of the three kinds of step only a reset step
makes `PIN_UNCONFIGURED`, and an ENV write keeps it. -/
theorem seqCfgConfiguresTheDirection : Obligations.SeqCfgConfiguresTheDirection := by
  refine ⟨fun s hwf hstate hphase => ?_, fun s t hstep ht => ?_⟩
  · have hat : s.AtSeq .pinUnconfigured .phAssert := ⟨hstate, hphase⟩
    exact ⟨decode_selectionWord_of_unconfigured hat, exec_seqCfg_of_atSeq hwf hat⟩
  · obtain ⟨-, ⟨rest, hrst, -⟩ | ⟨w, rest, henv, -, -, rfl⟩ | ⟨rest, i, -, hd, he⟩⟩ := step_next_cases hstep
    · exact .inl ⟨rest, hrst⟩
    · exact .inr ⟨by simpa using ht, w, rest, henv⟩
    · exact absurd ht (sequencer_step_leaves_unconfigured (s := setEdges rest s) hd he)

/-- Settles O22: the write, the count set to 0 and the move of `seq` are one update of the state. -/
theorem seqAssertDrivesTheLevel : Obligations.SeqAssertDrivesTheLevel := by
  intro s hwf hstate hphase
  have hat : s.AtSeq .pinHigh .phAssert := ⟨hstate, hphase⟩
  exact ⟨decode_selectionWord_of_assertDue hat, exec_seqAssert_of_atSeq hwf hat⟩

/-- Settles O23: the full count gives `z = 1`, and the write is a constant that does not look at `DATA`. -/
theorem seqDeassertClearsTheLevels : Obligations.SeqDeassertClearsTheLevels := by
  intro s hwf hstate hphase hfull
  have hat : s.AtSeq .pinHigh .phDelay := ⟨hstate, hphase⟩
  have hsel := selectionWord_of_iter_eq hat hfull
  exact ⟨hsel, hsel ▸ decode_selectionWord_of_iter_eq hat hfull, exec_seqDeassert_of_iter_eq hwf hat hfull⟩

/-- Settles O24: the operation is enabled in its place whatever `z` is, and its update is that of `SEQ.CFG`. -/
theorem seqLoopRepeatsTheDirectionWrite : Obligations.SeqLoopRepeatsTheDirectionWrite := by
  intro s hwf hstate hphase
  have hat : s.AtSeq .pinLow .phAssert := ⟨hstate, hphase⟩
  exact ⟨decode_selectionWord_of_pinLow hat, exec_seqLoop_of_atSeq hwf hat⟩

/-- In (`PIN_HIGH`, 1) the closed block's `DATA` is `MASK`: two records of this cycle are made, so the first
`SEQ.ASSERT` of the run is over (10_state R38 (d), (f)). -/
theorem data_eq_mask_of_closedInv {s : State} (hinv : ClosedInv s) (hat : s.AtSeq .pinHigh .phDelay) :
    s.data = mask s.cfg := by
  obtain ⟨hstate, hphase⟩ := hat
  have hplaced : s.trace.length % 3 = 2 := by simpa [hstate, hphase, recordsThisCycle] using hinv.placed
  have hasserted : ¬ s.trace.length < 2 := by omega
  rw [hinv.level, if_neg hasserted, if_pos ⟨hstate, hphase⟩]

/-- Settles O56: the constant clears every bit, so each driven pin is low; in the closed block `DATA` held `MASK` and
nothing else, which the single-bit variant clears too. -/
theorem deassertIsAFullRegisterClear : Obligations.DeassertIsAFullRegisterClear := by
  refine ⟨fun s t he => ?_, fun s t hinv he => ?_⟩
  · obtain ⟨-, -, rfl⟩ := execSeqDeassert_next_iff.1 he
    refine ⟨rfl, fun p hdriven => ?_⟩
    rw [level_of_driven (by simpa using hdriven)]
    simp
  · obtain ⟨-, ⟨hat, -⟩, rfl⟩ := execSeqDeassert_next_iff.1 he
    rw [data_eq_mask_of_closedInv hinv hat]
    simp

end Sys2Proof.Machine
end

section
/-! Changing the pin (42 R120): what SEQ does from a state that a run without input reaches, and the same state in a
block with another `LED_PIN`, which takes the same steps. -/

namespace Sys2Proof.Machine

open Safety

/-- Where a run of configuration `c` without input stands: SEQ can go on (42 R108) and no input is listed. -/
structure FreeRunning (c : Config) (s : State) : Prop where
  built : c.WellFormed
  cfg_eq : s.cfg = c
  noInput : s.edges = []
  legal : LegalSeq s
  iterBound : s.iter ≤ c.delayCount

theorem freeRunning_resetOf {c : Config} (hwf : c.WellFormed) : FreeRunning c (State.resetOf c) :=
  ⟨hwf, rfl, rfl, legalSeq_of_phAssert rfl, Nat.zero_le _⟩

/-- SEQ is never stuck: what a legal `seq` selects is enabled (42 R108). -/
theorem exists_exec_of_legalSeq {s : State} (hwf : s.cfg.WellFormed) (hlegal : LegalSeq s)
    (hiter : s.iter ≤ s.cfg.delayCount) :
    ∃ i t, decode s.cfg .sequencer (selectionWord s) = .ok i ∧ exec i s = .next t := by
  cases hphase : s.seqPhase with
  | phAssert =>
    cases hstate : s.seqState with
    | pinUnconfigured =>
      exact ⟨_, _, decode_selectionWord_of_unconfigured ⟨hstate, hphase⟩, exec_seqCfg_of_atSeq hwf ⟨hstate, hphase⟩⟩
    | pinHigh =>
      exact ⟨_, _, decode_selectionWord_of_assertDue ⟨hstate, hphase⟩, exec_seqAssert_of_atSeq hwf ⟨hstate, hphase⟩⟩
    | pinLow =>
      exact ⟨_, _, decode_selectionWord_of_pinLow ⟨hstate, hphase⟩, exec_seqLoop_of_atSeq hwf ⟨hstate, hphase⟩⟩
  | phDelay =>
    have hat : s.AtSeq .pinHigh .phDelay := ⟨hlegal hphase, hphase⟩
    obtain hlt | hfull := hiter.lt_or_eq
    · exact ⟨_, _, decode_selectionWord_of_iter_lt hat hlt, exec_seqTick_of_iter_lt hwf hat hlt⟩
    · exact ⟨_, _, decode_selectionWord_of_iter_eq hat hfull, exec_seqDeassert_of_iter_eq hwf hat hfull⟩

/-- A SEQ step takes no input off the list. -/
theorem sequencer_step_keeps_edges {s t : State} {i : Instr}
    (hd : decode s.cfg .sequencer (selectionWord s) = .ok i) (he : exec i s = .next t) : t.edges = s.edges := by
  obtain ⟨-, -, rfl⟩ | ⟨-, -, rfl⟩ | ⟨-, -, -, rfl⟩ | ⟨-, -, -, rfl⟩ | ⟨-, -, rfl⟩ := sequencer_cases hd he <;> rfl

/-- A SEQ step keeps `iter` in its bound: a tick runs only below it (10_state R38 (a)). -/
theorem sequencer_step_keeps_iter_le {s t : State} {i : Instr} (hiter : s.iter ≤ s.cfg.delayCount)
    (hd : decode s.cfg .sequencer (selectionWord s) = .ok i) (he : exec i s = .next t) :
    t.iter ≤ s.cfg.delayCount := by
  obtain ⟨-, -, rfl⟩ | ⟨-, -, rfl⟩ | ⟨-, -, hlt, rfl⟩ | ⟨-, -, -, rfl⟩ | ⟨-, -, rfl⟩ := sequencer_cases hd he
  · exact hiter
  · exact Nat.zero_le _
  · exact hlt
  · exact hiter
  · exact hiter

/-- A run without input goes on with the micro-operation selected, and can go on after it. -/
theorem FreeRunning.exists_step {c : Config} {s : State} (h : FreeRunning c s) :
    ∃ i t, decode s.cfg .sequencer (selectionWord s) = .ok i ∧ exec i s = .next t ∧ FreeRunning c t := by
  obtain ⟨hwf, rfl, hedges, hlegal, hiter⟩ := h
  obtain ⟨i, t, hd, he⟩ := exists_exec_of_legalSeq hwf hlegal hiter
  exact ⟨i, t, hd, he, hwf, exec_keeps_cfg he, (sequencer_step_keeps_edges hd he).trans hedges,
    legalSeq_of_sequencer_step hd he, sequencer_step_keeps_iter_le hiter hd he⟩

/-- A value written by a block of configuration `c`, as the block with pin `p` writes it: the mask is
replaced (42 R120). -/
def repinValue (c : Config) (p : Nat) (v : Byte) : Byte := if v = mask c then mask { c with ledPin := p } else v

/-- A record of a block of configuration `c`, as the block with pin `p` makes it (42 R120). -/
def repinRecord (c : Config) (p : Nat) (r : Record) : Record := { r with value := repinValue c p r.value }

/-- `s` in a block with pin `p`: the same place of the sequence, the records with the other mask, and any
registers, which SEQ never consults. -/
def withPin (p : Nat) (dir data : Byte) (s : State) : State :=
  { s with
    cfg := { s.cfg with ledPin := p }, dir := dir, data := data, trace := s.trace.map (repinRecord s.cfg p) }

theorem repinValue_mask (c : Config) (p : Nat) : repinValue c p (mask c) = mask { c with ledPin := p } := if_pos rfl

/-- The deassert value is no mask, so it stays (42 R120). -/
theorem repinValue_zero {c : Config} (p : Nat) (h : c.ledPin < 8) : repinValue c p 0#8 = 0#8 := by
  refine if_neg fun hzero => ?_
  have hpow := mask_toNat h
  rw [← hzero] at hpow
  exact absurd hpow (Nat.two_pow_pos c.ledPin).ne

/-- The new record has its value replaced where it is the mask, and keeps its number. -/
theorem withPin_appendRecord (p : Nat) (d e : Byte) (a : Nat) (v : Byte) (s : State) :
    withPin p d e (appendRecord a v s) = appendRecord a (repinValue s.cfg p v) (withPin p d e s) := by
  simp [withPin, appendRecord, repinRecord]

/-- A SEQ write to `DIR` in one block is the write of the replaced value in the other. -/
theorem writeDir_appendRecord_withPin {p : Nat} {v v' : Byte} {s : State} (d e : Byte) (a : Nat)
    (hv : repinValue s.cfg p v = v') :
    writeDir v' (appendRecord a v' (withPin p d e s)) = withPin p v' e (writeDir v (appendRecord a v s)) := by
  subst hv
  exact (withPin_appendRecord p _ e a v s).symm

/-- A SEQ write to `DATA` in one block is the write of the replaced value in the other. -/
theorem writeData_appendRecord_withPin {p : Nat} {v v' : Byte} {s : State} (d e : Byte) (a : Nat)
    (hv : repinValue s.cfg p v = v') :
    writeData v' (appendRecord a v' (withPin p d e s)) = withPin p d v' (writeData v (appendRecord a v s)) := by
  subst hv
  exact (withPin_appendRecord p d _ a v s).symm

/-- The micro-operation that runs in one block runs in the other, and keeps them apart by the pin alone. -/
theorem exec_withPin {p : Nat} {s t : State} {i : Instr} (d e : Byte) (hwf : s.cfg.WellFormed) (hp : p < 8)
    (hd : decode s.cfg .sequencer (selectionWord s) = .ok i) (he : exec i s = .next t) :
    ∃ d' e', exec i (withPin p d e s) = .next (withPin p d' e' t) := by
  have hwf' : (withPin p d e s).cfg.WellFormed := ⟨hp, hwf.2⟩
  obtain ⟨rfl, hat, rfl⟩ | ⟨rfl, hat, rfl⟩ | ⟨rfl, hat, hlt, rfl⟩ | ⟨rfl, hat, hfull, rfl⟩ | ⟨rfl, hat, rfl⟩ :=
    sequencer_cases hd he
  · have hwrite := writeDir_appendRecord_withPin d e s.cfg.dirAddr (repinValue_mask s.cfg p)
    exact ⟨_, e, execSeqCfg_next_iff.2 ⟨hwf', hat, congrArg (setSeq .pinHigh .phAssert) hwrite⟩⟩
  · have hwrite := writeData_appendRecord_withPin d e s.cfg.dataAddr (repinValue_mask s.cfg p)
    exact ⟨d, _, execSeqAssert_next_iff.2
      ⟨hwf', hat, congrArg (setSeq .pinHigh .phDelay) (congrArg (setIter 0) hwrite)⟩⟩
  · exact ⟨d, e, exec_seqTick_of_iter_lt hwf' hat hlt⟩
  · have hwrite := writeData_appendRecord_withPin d e s.cfg.dataAddr (repinValue_zero p hwf.1)
    exact ⟨d, _, execSeqDeassert_next_iff.2 ⟨hwf', ⟨hat, hfull⟩, congrArg (setSeq .pinLow .phAssert) hwrite⟩⟩
  · have hwrite := writeDir_appendRecord_withPin d e s.cfg.dirAddr (repinValue_mask s.cfg p)
    exact ⟨_, e, execSeqLoop_next_iff.2 ⟨hwf', hat, congrArg (setSeq .pinHigh .phAssert) hwrite⟩⟩

/-- From reset, the two blocks stay apart by the pin alone. -/
theorem runFor_withPin {c : Config} {p : Nat} (n : Nat) (hwf : c.WellFormed) (hp : p < 8) :
    ∃ s d e, FreeRunning c s ∧ runFor n (State.resetOf c) = .next s ∧
      runFor n (State.resetOf { c with ledPin := p }) = .next (withPin p d e s) := by
  induction n with
  | zero => exact ⟨_, c.dirReset, c.dataReset, freeRunning_resetOf hwf, rfl, rfl⟩
  | succ n ih =>
    obtain ⟨s, d, e, hfree, hrun, hrun'⟩ := ih
    obtain ⟨i, t, hd, he, hnext⟩ := hfree.exists_step
    obtain ⟨d', e', he'⟩ := exec_withPin d e (wellFormed_of_exec he) hp hd he
    refine ⟨t, d', e', hnext, ?_, ?_⟩
    · rw [runFor_succ_of hrun, step_of_no_edges hfree.noInput hd, he]
    · rw [runFor_succ_of hrun', step_of_no_edges (s := withPin p d e s) hfree.noInput hd, he']

/-- Settles O35: the second run is the first seen with the other pin, in which only the trace's masks and the
registers differ. -/
theorem changingThePinChangesOnlyTheMask : Obligations.ChangingThePinChangesOnlyTheMask := by
  intro c p n hwf hp
  obtain ⟨s, d, e, hfree, hrun, hrun'⟩ := runFor_withPin n hwf hp
  obtain rfl := hfree.cfg_eq
  exact ⟨s, _, hrun, hrun', rfl, rfl, rfl, rfl, rfl⟩

end Sys2Proof.Machine
end

section
/-! Reset (70 R151, R153): what a reset edge gives from any state, and a run of listed edges that a reset ends. -/

namespace Sys2Proof.Machine

open Safety

/-- A reset edge goes to the reset state, whatever the block was doing (70 R151). -/
theorem step_of_rst {s : State} {rest : List Edge} (hwf : s.cfg.WellFormed) (h : s.edges = .rst :: rest) :
    step s = .next (setEdges rest (State.resetOf s.cfg)) := by
  have hreset : step s = resetStep (setEdges rest s) := by simp [step, fetch, h]
  exact hreset.trans (resetStep_next_iff.2 ⟨hwf, rfl⟩)

/-- A reset edge puts nothing on the write port (70 R151). -/
theorem portWrite_of_rst {s : State} {rest : List Edge} (h : s.edges = .rst :: rest) : portWrite s = none := by
  simp [portWrite, fetch, h]

/-- A run edge is the selected micro-operation, with that edge taken off the list (10_state R22). -/
theorem step_of_run {s : State} {rest : List Edge} {i : Instr} (h : s.edges = .run :: rest)
    (hd : decode s.cfg .sequencer (selectionWord s) = .ok i) : step s = exec i (setEdges rest s) := by
  simp [step, fetch, h, hd]

/-- A state that could go on without input goes on at a listed run edge, and could again after it (42 R108). -/
theorem FreeRunning.exists_run_step {c : Config} {s : State} {rest : List Edge} (h : FreeRunning c (setEdges [] s))
    (hedges : s.edges = .run :: rest) :
    ∃ t, step s = .next t ∧ FreeRunning c (setEdges [] t) ∧ t.edges = rest := by
  obtain ⟨hwf, rfl, -, hlegal, hiter⟩ := h
  obtain ⟨i, t, hd, he⟩ := exists_exec_of_legalSeq (s := setEdges rest s) hwf hlegal hiter
  have hcfg : t.cfg = s.cfg := exec_keeps_cfg (s := setEdges rest s) he
  have hlegal' : LegalSeq t := legalSeq_of_sequencer_step hd he
  have hiter' : t.iter ≤ s.cfg.delayCount := sequencer_step_keeps_iter_le (s := setEdges rest s) hiter hd he
  exact ⟨t, (step_of_run hedges hd).trans he, ⟨hwf, hcfg, rfl, hlegal', hiter'⟩, sequencer_step_keeps_edges hd he⟩

/-- Such a state goes on through any number of listed run edges, up to the input after them. -/
theorem FreeRunning.exists_runFor {c : Config} {n : Nat} {s : State} {rest : List Edge}
    (h : FreeRunning c (setEdges [] s)) (hedges : s.edges = List.replicate n .run ++ rest) :
    ∃ t, runFor n s = .next t ∧ t.cfg = c ∧ t.edges = rest := by
  induction n generalizing s with
  | zero => exact ⟨s, runFor_zero s, h.cfg_eq, hedges⟩
  | succ n ih =>
    obtain ⟨t, hstep, hfree, hrest⟩ := h.exists_run_step hedges
    obtain ⟨u, hrun, hu⟩ := ih hfree hrest
    exact ⟨u, (runFor_succ_of_step n hstep).trans hrun, hu⟩

/-- Settles O43: the `n` run edges complete and leave the reset edge next, which gives the reset state with no input
listed, however far the run had come. -/
theorem runAfterResetIsAFirstRun : Obligations.RunAfterResetIsAFirstRun := by
  intro c n m hwf
  obtain ⟨t, hrun, rfl, hedges⟩ :=
    FreeRunning.exists_runFor (s := setEdges (List.replicate n .run ++ [.rst]) (State.resetOf c))
      (freeRunning_resetOf hwf) rfl
  calc runFor (n + 1 + m) (setEdges (List.replicate n .run ++ [.rst]) (State.resetOf t.cfg))
      = runFor (m + 1) t := by rw [Nat.add_assoc, Nat.add_comm 1 m, runFor_add_of (m + 1) hrun]
    _ = runFor m (State.resetOf t.cfg) := runFor_succ_of_step m (step_of_rst hwf hedges)

/-- Settles O42: the second reset edge is a reset edge of the first one's next state, whose configuration is the
same. -/
theorem resetStepTakesResetValues : Obligations.ResetStepTakesResetValues := by
  refine fun s rest hwf hedges => ⟨step_of_rst hwf hedges, portWrite_of_rst hedges,
    trValid_of_no_op (sequencerOp_of_rst hedges), fun rest' hheld => ?_⟩
  exact step_of_rst (s := setEdges rest (State.resetOf s.cfg)) hwf hheld

end Sys2Proof.Machine
end

section
/-! The words again (30_encoding sections 2, 3, 5): the encoder against the decoder, in both directions. -/

namespace Sys2Proof

/-- A number of more than `AW + 8` bits is no transaction word (log 22). -/
theorem decodeTransaction_of_le {c : Config} {w : Nat} (issuer : Issuer) (h : 2 ^ (c.aw + 8) ≤ w) :
    decodeTransaction c issuer w = .error .notATransactionWord := if_pos h

namespace Machine

/-- Settles O6: the W rows by the decoding of a transaction word at each class of address, the S rows by their
match with the word the encoder writes. -/
theorem decodeOfEncodeIsTheOperation : Obligations.DecodeOfEncodeIsTheOperation := by
  intro c i hwf hi
  cases i with
  | outbDir issuer v => exact decode_transactionWord_dirAddr issuer v hwf
  | outbData issuer v => exact decode_transactionWord_dataAddr issuer v hwf
  | outbUnmapped issuer a v => exact decode_transactionWord_unmapped issuer v (of_decide_eq_true hi)
  | seqCfg => exact decodeSelection_of_row ⟨0x7, 0x0, .seqCfg⟩ (by decide) 0b0000 (by decide) rfl
  | seqAssert => exact decodeSelection_of_row ⟨0x7, 0x1, .seqAssert⟩ (by decide) 0b0001 (by decide) rfl
  | seqTick => exact decodeSelection_of_row ⟨0xF, 0x5, .seqTick⟩ (by decide) 0b0101 (by decide) rfl
  | seqDeassert => exact decodeSelection_of_row ⟨0xF, 0xD, .seqDeassert⟩ (by decide) 0b1101 (by decide) rfl
  | seqLoop => exact decodeSelection_of_row ⟨0x7, 0x2, .seqLoop⟩ (by decide) 0b0010 (by decide) rfl

/-- Settles O7: the address compared is the address encoded, and the two fields make up the word. -/
theorem encodeOfDecodedWriteIsTheWord : Obligations.EncodeOfDecodedWriteIsTheWord := by
  intro c issuer w i hd
  obtain ⟨hw, hi⟩ := decodeTransaction_ok_iff.1 hd
  have hparts := transactionWord_parts w
  split_ifs at hi with hdir hdata <;> subst hi
  · exact ⟨rfl, rfl, by rw [encode, ← hdir, hparts]⟩
  · exact ⟨rfl, rfl, by rw [encode, ← hdata, hparts]⟩
  · exact ⟨decide_eq_true ⟨(wordAddr_lt_iff w c.aw).2 hw, hdir, hdata⟩, rfl, hparts⟩

/-- Settles O2: a word in range goes by its address, and any other is refused by the decoder's first test. -/
theorem writeWordDecodesByAddressPriority : Obligations.WriteWordDecodesByAddressPriority := by
  intro c issuer w _
  by_cases hw : w < 2 ^ (c.aw + 8)
  · rw [if_pos hw]
    exact decodeTransaction_of_lt issuer hw
  · rw [if_neg hw]
    exact decodeTransaction_of_le issuer (Nat.le_of_not_lt hw)

/-- The comparator's place in the selection word (30_encoding R72, R73). -/
theorem comparator_toNat_mul (s : State) :
    (comparator s).toNat * 8 = if s.iter = s.cfg.delayCount then 8 else 0 := by
  unfold comparator
  split_ifs with h <;> simp [h]

/-- Settles O4, field by field of the word. -/
theorem selectionWordIsComparatorPhaseState : Obligations.SelectionWordIsComparatorPhaseState := by
  intro s
  rw [selectionWord, comparator_toNat_mul]
  cases s.seqPhase <;> cases s.seqState <;> rfl

/-- Settles O8: the nine sample words are evaluated, a W word being read as ENV's (log 7). -/
theorem sampleWordsDecode : Obligations.SampleWordsDecode := by
  unfold Obligations.SampleWordsDecode
  decide

/-- An ENV edge, where ENV exists, is the operation its W word decodes to, with that edge taken off the list
(20_memory R65). -/
theorem step_of_env {s : State} {w : Nat} {rest : List Edge} {i : Instr} (h : s.edges = .env w :: rest)
    (hext : s.cfg.extWriters = true) (hd : decode s.cfg (.writePort .env) w = .ok i) :
    step s = exec i (setEdges rest s) := by
  simp [step, fetch, h, hext, hd]

/-- Settles O9, from the step of each kind of edge that runs an operation. -/
theorem stepRunsTheDecodedOperation : Obligations.StepRunsTheDecodedOperation :=
  fun _ _ => ⟨step_of_no_edges, fun _ => step_of_run, fun _ _ => step_of_env⟩

end Machine

end Sys2Proof
end

section
/-! The invariants (10_state R38): the reset state meets them, and each kind of step keeps them. -/

namespace Sys2Proof.Machine

open Safety

/-- The open invariant looks at neither register and at no input (10_state R38). -/
theorem openInv_congr {s t : State} (h : OpenInv s) (hcfg : t.cfg = s.cfg) (hstate : t.seqState = s.seqState)
    (hphase : t.seqPhase = s.seqPhase) (hiter : t.iter ≤ s.cfg.delayCount) (htrace : t.trace = s.trace)
    (hseqno : t.seqno = s.seqno) : OpenInv t where
  built := by rw [hcfg]; exact h.built
  iterBound := by rw [hcfg]; exact hiter
  legal := (legalSeq_congr hstate hphase).2 h.legal
  numbered := by rw [hseqno, htrace]; exact h.numbered
  recorded := by rw [hcfg, htrace]; exact h.recorded
  placed := by rw [htrace, hstate, hphase]; exact h.placed

/-- A step that appends the next record of R121 and moves `seq` to the place after it keeps the open invariant
(10_state R38 (e), (f)). -/
theorem openInv_of_record {s t : State} {r : Record} (h : OpenInv s) (hcfg : t.cfg = s.cfg) (hlegal : LegalSeq t)
    (hiter : t.iter ≤ s.cfg.delayCount) (hr : r = traceRecord s.cfg s.trace.length) (htrace : t.trace = s.trace ++ [r])
    (hseqno : t.seqno = s.seqno + 1)
    (hplaced : (s.trace.length + 1) % 3 = recordsThisCycle t.seqState t.seqPhase) : OpenInv t where
  built := by rw [hcfg]; exact h.built
  iterBound := by rw [hcfg]; exact hiter
  legal := hlegal
  numbered := by simp [hseqno, htrace, h.numbered]
  recorded := by
    rw [hcfg, htrace, List.length_append, List.length_singleton, controllerTrace_succ, ← h.recorded, hr]
  placed := by rw [htrace, List.length_append, List.length_singleton, hplaced]

theorem openInv_resetOf {c : Config} (hwf : c.WellFormed) : OpenInv (State.resetOf c) :=
  ⟨hwf, Nat.zero_le _, legalSeq_of_phAssert rfl, rfl, rfl, rfl⟩

theorem closedInv_resetOf {c : Config} (hwf : c.WellFormed) (hclosed : c.extWriters = false) :
    ClosedInv (State.resetOf c) :=
  ⟨openInv_resetOf hwf, hclosed, rfl, rfl⟩

/-- Settles O40, field by field of the reset state. -/
theorem resetStateMeetsTheInvariants : Obligations.ResetStateMeetsTheInvariants :=
  fun _ hwf => ⟨openInv_resetOf hwf, closedInv_resetOf hwf⟩

/-- How many records this cycle has made where `seq` stands (10_state R38 (f)). -/
theorem length_mod_of_openInv {s : State} {st : SeqState} {ph : Phase} (h : OpenInv s) (hat : s.AtSeq st ph) :
    s.trace.length % 3 = recordsThisCycle st ph := by
  rw [h.placed, hat.1, hat.2]

/-- Each micro-operation that writes makes the record of R121 that is due at its place, and a tick counts no further
than `DELAY_COUNT`. -/
theorem sequencer_step_keeps_openInv {s t : State} {i : Instr} (h : OpenInv s)
    (hd : decode s.cfg .sequencer (selectionWord s) = .ok i) (he : exec i s = .next t) : OpenInv t := by
  have hlegal := legalSeq_of_sequencer_step hd he
  have hiter := sequencer_step_keeps_iter_le h.iterBound hd he
  obtain ⟨-, hat, rfl⟩ | ⟨-, hat, rfl⟩ | ⟨-, hat, -, rfl⟩ | ⟨-, hat, -, rfl⟩ | ⟨-, hat, rfl⟩ := sequencer_cases hd he
  · have hdue : s.trace.length % 3 = 0 := length_mod_of_openInv h hat
    exact openInv_of_record h rfl hlegal hiter (traceRecord_direction _ hdue).symm (by simp [h.numbered]) rfl
      (by simp [recordsThisCycle]; omega)
  · have hdue : s.trace.length % 3 = 1 := length_mod_of_openInv h hat
    exact openInv_of_record h rfl hlegal hiter (traceRecord_assert _ hdue).symm (by simp [h.numbered]) rfl
      (by simp [recordsThisCycle]; omega)
  · exact openInv_congr h rfl rfl rfl hiter rfl rfl
  · have hdue : s.trace.length % 3 = 2 := length_mod_of_openInv h hat
    exact openInv_of_record h rfl hlegal hiter (traceRecord_deassert _ hdue).symm (by simp [h.numbered]) rfl
      (by simp [recordsThisCycle]; omega)
  · have hdue : s.trace.length % 3 = 0 := length_mod_of_openInv h hat
    exact openInv_of_record h rfl hlegal hiter (traceRecord_direction _ hdue).symm (by simp [h.numbered]) rfl
      (by simp [recordsThisCycle]; omega)

/-- Taking an input off the list keeps the open invariant. -/
theorem openInv_setEdges {s : State} (rest : List Edge) (h : OpenInv s) : OpenInv (setEdges rest s) :=
  openInv_congr h rfl rfl rfl h.iterBound rfl rfl

/-- Settles O38: a reset step establishes the invariant anew, an ENV write touches nothing it speaks of, and each
micro-operation keeps it. -/
theorem stepKeepsTheOpenInvariant : Obligations.StepKeepsTheOpenInvariant := by
  intro s t h hstep
  obtain ⟨hwf, ⟨rest, -, rfl⟩ | ⟨w, rest, -, -, -, rfl⟩ | ⟨rest, i, -, hd, he⟩⟩ := step_next_cases hstep
  · exact openInv_setEdges rest (openInv_resetOf hwf)
  · exact openInv_congr h (by simp) (by simp) (by simp) (by simpa using h.iterBound) (by simp) (by simp)
  · exact sequencer_step_keeps_openInv (openInv_setEdges rest h) hd he

/-- Taking an input off the list keeps the closed invariant. -/
theorem closedInv_setEdges {s : State} (rest : List Edge) (h : ClosedInv s) : ClosedInv (setEdges rest s) :=
  ⟨openInv_setEdges rest h.toOpenInv, h.closed, h.direction, h.level⟩

/-- Out of the delay and at the end of a cycle, `DATA` is `DATA_RESET` where the run has made no record yet and clear
in every later cycle (10_state R38 (d)). -/
theorem data_of_cycle_start {s : State} (h : ClosedInv s) (hphase : s.seqPhase = .phAssert)
    (hdue : s.trace.length % 3 = 0) : s.data = if s.trace.length + 1 < 2 then s.cfg.dataReset else 0x00 := by
  have hearly : s.trace.length < 2 ↔ s.trace.length + 1 < 2 := by omega
  simpa [hphase, hearly] using h.level

/-- Once the pin is configured, `DIR` is `MASK` (10_state R38 (c)). -/
theorem dir_of_configured {s : State} (h : ClosedInv s) (hstate : s.seqState ≠ .pinUnconfigured) :
    s.dir = mask s.cfg := by
  rw [h.direction, if_neg hstate]

/-- Each micro-operation leaves in `DIR` and `DATA` what its place asks for (10_state R38 (c), (d)). -/
theorem sequencer_step_keeps_closedInv {s t : State} {i : Instr} (h : ClosedInv s)
    (hd : decode s.cfg .sequencer (selectionWord s) = .ok i) (he : exec i s = .next t) : ClosedInv t := by
  have hopen := sequencer_step_keeps_openInv h.toOpenInv hd he
  obtain ⟨-, hat, rfl⟩ | ⟨-, hat, rfl⟩ | ⟨-, hat, -, rfl⟩ | ⟨-, hat, -, rfl⟩ | ⟨-, hat, rfl⟩ := sequencer_cases hd he
  · have hdue : s.trace.length % 3 = 0 := length_mod_of_openInv h.toOpenInv hat
    exact ⟨hopen, h.closed, by simp, by simpa using data_of_cycle_start h hat.2 hdue⟩
  · have hdue : s.trace.length % 3 = 1 := length_mod_of_openInv h.toOpenInv hat
    have hasserted : s.trace.length ≠ 0 := by omega
    exact ⟨hopen, h.closed, by simpa using dir_of_configured h (by simp [hat.1]), by simp [hasserted]⟩
  · exact ⟨hopen, h.closed, h.direction, h.level⟩
  · have hdue : s.trace.length % 3 = 2 := length_mod_of_openInv h.toOpenInv hat
    have hasserted : s.trace.length ≠ 0 := by omega
    exact ⟨hopen, h.closed, by simpa using dir_of_configured h (by simp [hat.1]), by simp [hasserted]⟩
  · have hdue : s.trace.length % 3 = 0 := length_mod_of_openInv h.toOpenInv hat
    exact ⟨hopen, h.closed, by simp, by simpa using data_of_cycle_start h hat.2 hdue⟩

/-- Settles O39: without ENV a step is a reset step, which establishes the invariant anew, or a micro-operation, which
keeps it. -/
theorem stepKeepsTheClosedInvariant : Obligations.StepKeepsTheClosedInvariant := by
  intro s t h hstep
  obtain ⟨hwf, ⟨rest, -, rfl⟩ | ⟨w, rest, -, hext, -, -⟩ | ⟨rest, i, -, hd, he⟩⟩ := step_next_cases hstep
  · exact closedInv_setEdges rest (closedInv_resetOf hwf h.closed)
  · exact nomatch h.closed.symm.trans hext
  · exact sequencer_step_keeps_closedInv (closedInv_setEdges rest h) hd he

end Sys2Proof.Machine
end

section
/-! The operations one by one: what each leaves unchanged (40 R91 to R93, 41 R101, 42 R109 to R112), where `seq` is
before and after it (10_state R22), where it is refused, and which one is enabled. -/

namespace Sys2Proof.Machine

open Safety

/-- Settles O15: each `OUTB` is its record and one register write at most, and ENV's leaves no record. -/
theorem registerWriteFrame : Obligations.RegisterWriteFrame := by
  intro i s t he
  cases i with
  | outbDir issuer v =>
    obtain ⟨-, rfl⟩ := execOutbDir_next_iff.1 he
    cases issuer <;> simp
  | outbData issuer v =>
    obtain ⟨-, rfl⟩ := execOutbData_next_iff.1 he
    cases issuer <;> simp
  | outbUnmapped issuer a v =>
    obtain ⟨-, -, rfl⟩ := execOutbUnmapped_next_iff.1 he
    cases issuer <;> simp
  | seqCfg | seqAssert | seqTick | seqDeassert | seqLoop => trivial

theorem mem_microOps_iff {i : Instr} :
    i ∈ microOps ↔ i = .seqCfg ∨ i = .seqAssert ∨ i = .seqTick ∨ i = .seqDeassert ∨ i = .seqLoop := by
  simp [microOps]

/-- Settles O25, from the updates each micro-operation is made of. -/
theorem microOperationFrame : Obligations.MicroOperationFrame := by
  intro i s t hi he
  obtain rfl | rfl | rfl | rfl | rfl := mem_microOps_iff.1 hi
  · obtain ⟨-, -, rfl⟩ := execSeqCfg_next_iff.1 he
    simp
  · obtain ⟨-, -, rfl⟩ := execSeqAssert_next_iff.1 he
    simp
  · obtain ⟨-, -, rfl⟩ := execSeqTick_next_iff.1 he
    simp
  · obtain ⟨-, -, rfl⟩ := execSeqDeassert_next_iff.1 he
    simp
  · obtain ⟨-, -, rfl⟩ := execSeqLoop_next_iff.1 he
    simp

/-- `seq` as a pair (10_state R22). -/
theorem State.AtSeq.pair_eq {s : State} {st : SeqState} {ph : Phase} (hat : s.AtSeq st ph) :
    (s.seqState, s.seqPhase) = (st, ph) := by
  rw [hat.1, hat.2]

/-- Settles O26: before a micro-operation `seq` is where its `require` asks, and after it where its update puts it. -/
theorem sequencerAdvanceTable : Obligations.SequencerAdvanceTable := by
  intro i s t he
  cases i with
  | outbDir =>
    obtain ⟨-, rfl⟩ := execOutbDir_next_iff.1 he
    simp
  | outbData =>
    obtain ⟨-, rfl⟩ := execOutbData_next_iff.1 he
    simp
  | outbUnmapped =>
    obtain ⟨-, -, rfl⟩ := execOutbUnmapped_next_iff.1 he
    simp
  | seqCfg =>
    obtain ⟨-, hat, rfl⟩ := execSeqCfg_next_iff.1 he
    exact ⟨hat.pair_eq, rfl⟩
  | seqAssert =>
    obtain ⟨-, hat, rfl⟩ := execSeqAssert_next_iff.1 he
    exact ⟨hat.pair_eq, rfl⟩
  | seqTick =>
    obtain ⟨-, ⟨hat, hlt⟩, rfl⟩ := execSeqTick_next_iff.1 he
    exact ⟨hat.pair_eq, decide_eq_false hlt.ne, hat.pair_eq⟩
  | seqDeassert =>
    obtain ⟨-, ⟨hat, hfull⟩, rfl⟩ := execSeqDeassert_next_iff.1 he
    exact ⟨hat.pair_eq, decide_eq_true hfull, rfl⟩
  | seqLoop =>
    obtain ⟨-, hat, rfl⟩ := execSeqLoop_next_iff.1 he
    exact ⟨hat.pair_eq, rfl⟩

/-- Where its condition fails a micro-operation of a built machine is refused under its name (log 9). -/
theorem whenBuilt_require_of_not {s t : State} {p : Prop} [Decidable p] (m : String) (hwf : s.cfg.WellFormed)
    (hp : ¬ p) : whenBuilt s (require p m t) = .refused (.notEnabled m) := by
  rw [whenBuilt_of_wf _ hwf, require, if_neg hp]

/-- `OUTB.UNMAPPED` of a built machine is refused on any other address (log 12). -/
theorem exec_outbUnmapped_of_not_unmapped {s : State} {a : Nat} (issuer : Issuer) (v : Byte)
    (hwf : s.cfg.WellFormed) (ha : ¬ s.cfg.Unmapped a) :
    exec (.outbUnmapped issuer a v) s = .refused .addressNotUnmapped :=
  (whenBuilt_of_wf _ hwf).trans (if_neg ha)

/-- Settles O28: each micro-operation is one guard, and an address beyond the space or of a register is not
unmapped. -/
theorem operationsOutsideTheirConditionAreRefused : Obligations.OperationsOutsideTheirConditionAreRefused := by
  refine fun s hwf => ⟨whenBuilt_require_of_not _ hwf, whenBuilt_require_of_not _ hwf, whenBuilt_require_of_not _ hwf,
    whenBuilt_require_of_not _ hwf, whenBuilt_require_of_not _ hwf, fun issuer a v ha => ?_⟩
  refine exec_outbUnmapped_of_not_unmapped issuer v hwf fun ⟨hspace, hdir, hdata⟩ => ?_
  obtain hwide | hisDir | hisData := ha
  · exact absurd hspace (Nat.not_lt_of_le hwide)
  · exact hdir hisDir
  · exact hdata hisData

/-- Settles O29: the write at `DIR_ADDR` decodes to `OUTB.DIR` and the one at `DATA_ADDR` to `OUTB.DATA`; what the
micro-operation adds is in `seq` and `iter`. -/
theorem microOperationContainsItsOutb : Obligations.MicroOperationContainsItsOutb := by
  intro i s t a v he hw
  have hwf := wellFormed_of_exec he
  cases i with
  | seqCfg =>
    cases hw
    obtain ⟨-, -, rfl⟩ := execSeqCfg_next_iff.1 he
    exact ⟨_, _, decode_transactionWord_dirAddr .seq _ hwf, exec_outbDir_of_wf .seq _ hwf, rfl⟩
  | seqAssert =>
    cases hw
    obtain ⟨-, -, rfl⟩ := execSeqAssert_next_iff.1 he
    exact ⟨_, _, decode_transactionWord_dataAddr .seq _ hwf, exec_outbData_of_wf .seq _ hwf, rfl⟩
  | seqDeassert =>
    cases hw
    obtain ⟨-, -, rfl⟩ := execSeqDeassert_next_iff.1 he
    exact ⟨_, _, decode_transactionWord_dataAddr .seq _ hwf, exec_outbData_of_wf .seq _ hwf, rfl⟩
  | seqLoop =>
    cases hw
    obtain ⟨-, -, rfl⟩ := execSeqLoop_next_iff.1 he
    exact ⟨_, _, decode_transactionWord_dirAddr .seq _ hwf, exec_outbDir_of_wf .seq _ hwf, rfl⟩
  | seqTick | outbDir | outbData | outbUnmapped => cases hw

/-- A micro-operation that completes is the one the selection word selects (30_encoding R78, 42 R108). -/
theorem decode_selectionWord_of_exec {j : Instr} {s t : State} (hj : j ∈ microOps) (he : exec j s = .next t) :
    decode s.cfg .sequencer (selectionWord s) = .ok j := by
  obtain rfl | rfl | rfl | rfl | rfl := mem_microOps_iff.1 hj
  · obtain ⟨-, hat, -⟩ := execSeqCfg_next_iff.1 he
    exact decode_selectionWord_of_unconfigured hat
  · obtain ⟨-, hat, -⟩ := execSeqAssert_next_iff.1 he
    exact decode_selectionWord_of_assertDue hat
  · obtain ⟨-, ⟨hat, hlt⟩, -⟩ := execSeqTick_next_iff.1 he
    exact decode_selectionWord_of_iter_lt hat hlt
  · obtain ⟨-, ⟨hat, hfull⟩, -⟩ := execSeqDeassert_next_iff.1 he
    exact decode_selectionWord_of_iter_eq hat hfull
  · obtain ⟨-, hat, -⟩ := execSeqLoop_next_iff.1 he
    exact decode_selectionWord_of_pinLow hat

/-- What a SEQ step runs is a micro-operation. -/
theorem mem_microOps_of_sequencer_step {s t : State} {i : Instr}
    (hd : decode s.cfg .sequencer (selectionWord s) = .ok i) (he : exec i s = .next t) : i ∈ microOps := by
  obtain ⟨rfl, -⟩ | ⟨rfl, -⟩ | ⟨rfl, -⟩ | ⟨rfl, -⟩ | ⟨rfl, -⟩ := sequencer_cases hd he <;> decide

/-- Settles O30: the one selected completes, and any that completes is the one selected. -/
theorem exactlyOneMicroOperationIsEnabled : Obligations.ExactlyOneMicroOperationIsEnabled := by
  intro s hwf hlegal hiter
  obtain ⟨i, t, hd, he⟩ := exists_exec_of_legalSeq hwf hlegal hiter
  refine ⟨i, mem_microOps_of_sequencer_step hd he, hd, ⟨t, he⟩, fun j hj ⟨u, hu⟩ => ?_,
    fun hedges => ⟨t, (step_of_no_edges hedges hd).trans he⟩⟩
  cases (decode_selectionWord_of_exec hj hu).symm.trans hd
  rfl

end Sys2Proof.Machine
end

section
/-! One step of the whole block: what its write port carries, what the trace and the registers take from it, and that
no possible input leaves it stuck (20_memory section 3, 60 R126). -/

namespace Sys2Proof.Machine

open Safety

/-- A SEQ edge puts SEQ's write on the port (10_state R36). -/
theorem portWrite_of_sequencer {s : State} {rest : List Edge} (h : s.edges = [] ∧ rest = [] ∨ s.edges = .run :: rest) :
    portWrite s = tap s := by
  obtain ⟨hedges, -⟩ | hedges := h <;> simp [portWrite, fetch, hedges]

/-- An ENV edge puts ENV's word on the port (20_memory R65). -/
theorem portWrite_of_env {s : State} {w : Nat} {rest : List Edge} (h : s.edges = .env w :: rest)
    (hext : s.cfg.extWriters = true) : portWrite s = some (wordAddr w, wordValue w) := by
  simp [portWrite, fetch, h, hext]

/-- Settles O49, from the write each micro-operation drives. -/
theorem sequencerWritesOnlyItsTwoRegisters : Obligations.SequencerWritesOnlyItsTwoRegisters := by
  intro s a v htap
  rw [tap_eq_bind] at htap
  obtain ⟨i, -, hw⟩ := Option.bind_eq_some_iff.1 htap
  cases i with
  | seqCfg => cases hw; exact .inl ⟨rfl, rfl⟩
  | seqAssert => cases hw; exact .inr ⟨rfl, .inl rfl⟩
  | seqDeassert => cases hw; exact .inr ⟨rfl, .inr rfl⟩
  | seqLoop => cases hw; exact .inl ⟨rfl, rfl⟩
  | seqTick | outbDir | outbData | outbUnmapped => cases hw

/-- A SEQ step counts the records it makes (10_state R35). -/
theorem sequencer_step_seqno {s t : State} {i : Instr} (hd : decode s.cfg .sequencer (selectionWord s) = .ok i)
    (he : exec i s = .next t) : t.seqno = s.seqno + (recordsOf s.seqno (sequencerWrite s.cfg i)).length := by
  obtain ⟨rfl, -, rfl⟩ | ⟨rfl, -, rfl⟩ | ⟨rfl, -, -, rfl⟩ | ⟨rfl, -, -, rfl⟩ | ⟨rfl, -, rfl⟩ := sequencer_cases hd he <;>
    simp [sequencerWrite]

/-- Settles O47: a reset step empties the trace, an ENV write leaves it, and a SEQ step appends the write it drives, if
it drives one. -/
theorem eachStepAppendsAtMostOneRecord : Obligations.EachStepAppendsAtMostOneRecord := by
  intro s t hstep
  obtain ⟨-, ⟨rest, hrst, rfl⟩ | ⟨w, rest, -, -, -, rfl⟩ | ⟨rest, i, -, hd, he⟩⟩ := step_next_cases hstep
  · exact .inl ⟨⟨rest, hrst⟩, rfl, rfl⟩
  · exact .inr (.inl ⟨by simp, by simp⟩)
  · have htrace := sequencer_step_trace (s := setEdges rest s) hd he
    have hseqno := sequencer_step_seqno (s := setEdges rest s) hd he
    obtain hw | ⟨⟨a, v⟩, hw⟩ := Option.eq_none_or_eq_some (sequencerWrite s.cfg i)
    · exact .inr (.inl (by simpa [hw] using And.intro htrace hseqno))
    · exact .inr (.inr ⟨a, v, by simpa [hw] using And.intro htrace hseqno⟩)

/-- What a register at address `a` that held `v` holds after a step with `w` on the write port (20_memory R46, R48). -/
def registerAfter (w : Option (Nat × Byte)) (a : Nat) (v : Byte) : Byte :=
  match w with
  | some (b, x) => if b = a then x else v
  | none => v

@[simp] theorem registerAfter_none (a : Nat) (v : Byte) : registerAfter none a v = v := rfl
@[simp] theorem registerAfter_some (b a : Nat) (x v : Byte) :
    registerAfter (some (b, x)) a v = if b = a then x else v := rfl

/-- A SEQ step gives each register what SEQ drives (20_memory R46). -/
theorem sequencer_step_registers {s t : State} {i : Instr} (hd : decode s.cfg .sequencer (selectionWord s) = .ok i)
    (he : exec i s = .next t) :
    t.dir = registerAfter (sequencerWrite s.cfg i) s.cfg.dirAddr s.dir ∧
    t.data = registerAfter (sequencerWrite s.cfg i) s.cfg.dataAddr s.data := by
  obtain ⟨-, -, -, hne, -⟩ := wellFormed_of_exec he
  obtain ⟨rfl, -, rfl⟩ | ⟨rfl, -, rfl⟩ | ⟨rfl, -, -, rfl⟩ | ⟨rfl, -, -, rfl⟩ | ⟨rfl, -, rfl⟩ := sequencer_cases hd he <;>
    simp [sequencerWrite, hne, hne.symm]

/-- Every step but a reset step gives each register what the write port carries (20_memory R46, R48, R56). -/
theorem step_registers {s t : State} (h : step s = .next t) (hrst : ∀ rest, s.edges ≠ .rst :: rest) :
    t.dir = registerAfter (portWrite s) s.cfg.dirAddr s.dir ∧
    t.data = registerAfter (portWrite s) s.cfg.dataAddr s.data := by
  obtain ⟨hwf, ⟨rest, hr, -⟩ | ⟨w, rest, henv, hext, -, rfl⟩ | ⟨rest, i, hseq, hd, he⟩⟩ := step_next_cases h
  · exact absurd hr (hrst rest)
  · obtain ⟨-, -, -, hne, -⟩ := hwf
    rw [portWrite_of_env henv hext]
    exact ⟨storeByte_dir .., storeByte_data (s := setEdges rest s) hne⟩
  · rw [portWrite_of_sequencer hseq, tap_eq_bind, sequencerOp_of_decode hseq hd]
    exact sequencer_step_registers (s := setEdges rest s) hd he

/-- Settles O50, which is what every step but a reset step does to the registers. -/
theorem registersFollowTheWritePort : Obligations.RegistersFollowTheWritePort := by
  intro s t hstep hrst
  obtain ⟨hdir, hdata⟩ := step_registers hstep hrst
  refine ⟨hdir.trans ?_, hdata.trans ?_⟩ <;> cases portWrite s <;> rfl

/-- A recorded write is the latest to its address (20_memory R59 (a)). -/
theorem latestWrite_append_recordsOf (trace : List Record) (n : Nat) (w : Option (Nat × Byte)) (a : Nat) (v : Byte) :
    latestWrite (trace ++ recordsOf n w) a v = registerAfter w a (latestWrite trace a v) := by
  obtain _ | ⟨b, x⟩ := w <;> simp

/-- Without ENV, only SEQ's recorded writes reach the port (20_memory R65). -/
theorem portWrite_of_closed {s t : State} (hclosed : s.cfg.extWriters = false) (h : step s = .next t)
    (hrst : ∀ rest, s.edges ≠ .rst :: rest) : portWrite s = tap s := by
  obtain ⟨-, ⟨rest, hr, -⟩ | ⟨w, rest, -, hext, -⟩ | ⟨rest, i, hseq, -⟩⟩ := step_next_cases h
  · exact absurd hr (hrst rest)
  · exact nomatch hclosed.symm.trans hext
  · exact portWrite_of_sequencer hseq

/-- Settles O51: a reset step empties the trace and takes the reset values; any other step of the closed block records
exactly what its port carries. -/
theorem registersHoldTheirLatestWrite : Obligations.RegistersHoldTheirLatestWrite := by
  intro s t hclosed hdir hdata hstep
  by_cases hreset : ∃ rest, s.edges = .rst :: rest
  · obtain ⟨rest, hrst⟩ := hreset
    cases hstep.symm.trans (step_of_rst (wellFormed_of_step hstep) hrst)
    exact ⟨rfl, rfl⟩
  · have hrst : ∀ rest, s.edges ≠ .rst :: rest := not_exists.1 hreset
    have hregisters := step_registers hstep hrst
    rw [portWrite_of_closed hclosed hstep hrst] at hregisters
    rw [step_trace hstep hrst, step_keeps_cfg hstep, latestWrite_append_recordsOf, latestWrite_append_recordsOf,
      ← hdir, ← hdata]
    exact hregisters

/-- Where ENV exists, every word in range is a step, whose whole effect is the register effect of its write
(20_memory R65). -/
theorem step_of_env_of_lt {s : State} {w : Nat} {rest : List Edge} (hwf : s.cfg.WellFormed)
    (hedges : s.edges = .env w :: rest) (hext : s.cfg.extWriters = true) (hw : w < 2 ^ (s.cfg.aw + 8)) :
    step s = .next (storeByte (wordAddr w) (wordValue w) (setEdges rest s)) := by
  obtain ⟨i, t, hd, he⟩ := exists_exec_of_transactionWord (s := setEdges rest s) .env (wordValue w) hwf
    ((wordAddr_lt_iff w _).2 hw)
  rw [transactionWord_parts] at hd
  obtain ⟨-, rfl⟩ := exec_of_transaction hd he
  exact (step_of_env hedges hext hd).trans he

/-- A possible ENV word comes where ENV exists, and is in range (20_memory R65, 30_encoding R71). -/
theorem possibleEdge_env_iff {c : Config} {w : Nat} :
    possibleEdge c (.env w) = true ↔ c.extWriters = true ∧ w < 2 ^ (c.aw + 8) := by
  simp [possibleEdge]

/-- Settles O37: SEQ is never stuck, a reset step only needs the machine built, and ENV's word in range is a
step. -/
theorem everyPossibleStepCompletes : Obligations.EveryPossibleStepCompletes := by
  intro s hinv hpossible
  obtain ⟨i, t, hd, he⟩ := exists_exec_of_legalSeq hinv.built hinv.legal hinv.iterBound
  match hedges : s.edges with
  | [] => exact ⟨t, (step_of_no_edges hedges hd).trans he⟩
  | .run :: rest =>
    have hrunning : FreeRunning s.cfg (setEdges [] s) := ⟨hinv.built, rfl, rfl, hinv.legal, hinv.iterBound⟩
    obtain ⟨u, hu, -⟩ := hrunning.exists_run_step hedges
    exact ⟨u, hu⟩
  | .rst :: rest => exact ⟨_, step_of_rst hinv.built hedges⟩
  | .env w :: rest =>
    obtain ⟨hext, hw⟩ := possibleEdge_env_iff.1 (hpossible (.env w) (by simp [hedges]))
    exact ⟨_, step_of_env_of_lt hinv.built hedges hext hw⟩

end Sys2Proof.Machine
end

section
/-! Runs without input (41 section 3, 42 section 3): one micro-operation after another, up to a whole cycle. -/

namespace Sys2Proof.Machine

open Safety

/-- With no input listed SEQ performs `i` in `s`, which gives `t`. -/
structure Performs (i : Instr) (s t : State) : Prop where
  noInput : s.edges = []
  selected : decode s.cfg .sequencer (selectionWord s) = .ok i
  executed : exec i s = .next t

theorem Performs.step_eq {i : Instr} {s t : State} (h : Performs i s t) : step s = .next t :=
  (step_of_no_edges h.noInput h.selected).trans h.executed

theorem Performs.sequencerOp_eq {i : Instr} {s t : State} (h : Performs i s t) : sequencerOp s = some i :=
  sequencerOp_of_decode (.inl ⟨h.noInput, rfl⟩) h.selected

/-- `s` after a direction write (42 R109, R112). -/
def afterDirection (s : State) : State :=
  setSeq .pinHigh .phAssert (writeDir (mask s.cfg) (appendRecord s.cfg.dirAddr (mask s.cfg) s))

/-- `s` after an assert write (42 R110). -/
def afterAssert (s : State) : State :=
  setSeq .pinHigh .phDelay (setIter 0 (writeData (mask s.cfg) (appendRecord s.cfg.dataAddr (mask s.cfg) s)))

@[simp] theorem afterAssert_cfg (s : State) : (afterAssert s).cfg = s.cfg := rfl

/-- `s` after a deassert write (42 R111). -/
def afterDeassert (s : State) : State :=
  setSeq .pinLow .phAssert (writeData deassertValue (appendRecord s.cfg.dataAddr deassertValue s))

/-- The first direction write (42 R109). -/
theorem performs_seqCfg {s : State} (hwf : s.cfg.WellFormed) (hedges : s.edges = [])
    (hat : s.AtSeq .pinUnconfigured .phAssert) :
    Performs .seqCfg s (afterDirection s) :=
  ⟨hedges, decode_selectionWord_of_unconfigured hat, exec_seqCfg_of_atSeq hwf hat⟩

/-- The assert write (42 R110). -/
theorem performs_seqAssert {s : State} (hwf : s.cfg.WellFormed) (hedges : s.edges = [])
    (hat : s.AtSeq .pinHigh .phAssert) :
    Performs .seqAssert s (afterAssert s) :=
  ⟨hedges, decode_selectionWord_of_assertDue hat, exec_seqAssert_of_atSeq hwf hat⟩

/-- An iteration of the delay (41 R101). -/
theorem performs_seqTick {s : State} (hwf : s.cfg.WellFormed) (hedges : s.edges = [])
    (hat : s.AtSeq .pinHigh .phDelay) (hlt : s.iter < s.cfg.delayCount) :
    Performs .seqTick s (setIter (s.iter + 1) s) :=
  ⟨hedges, decode_selectionWord_of_iter_lt hat hlt, exec_seqTick_of_iter_lt hwf hat hlt⟩

/-- The deassert write (42 R111). -/
theorem performs_seqDeassert {s : State} (hwf : s.cfg.WellFormed) (hedges : s.edges = [])
    (hat : s.AtSeq .pinHigh .phDelay) (hfull : s.iter = s.cfg.delayCount) :
    Performs .seqDeassert s (afterDeassert s) :=
  ⟨hedges, decode_selectionWord_of_iter_eq hat hfull, exec_seqDeassert_of_iter_eq hwf hat hfull⟩

/-- The direction write of a later cycle (42 R112). -/
theorem performs_seqLoop {s : State} (hwf : s.cfg.WellFormed) (hedges : s.edges = [])
    (hat : s.AtSeq .pinLow .phAssert) :
    Performs .seqLoop s (afterDirection s) :=
  ⟨hedges, decode_selectionWord_of_pinLow hat, exec_seqLoop_of_atSeq hwf hat⟩

/-- Settles O44: the two micro-operations, whose records are the only ones. -/
theorem firstTwoStepsAreDirectionThenAssert : Obligations.FirstTwoStepsAreDirectionThenAssert := by
  intro c hwf
  have hcfg := performs_seqCfg (s := State.resetOf c) hwf rfl ⟨rfl, rfl⟩
  have hassert := performs_seqAssert (s := afterDirection (State.resetOf c)) hwf rfl ⟨rfl, rfl⟩
  exact ⟨_, _, hcfg.step_eq, hassert.step_eq, hcfg.sequencerOp_eq, hassert.sequencerOp_eq, rfl⟩

/-- Settles O19: the assert enters the delay at 0, so after `k` edges the count is `k`, and what SEQ performs there
depends on whether the count is full. -/
theorem delayIsExactlyDelayCountTicks : Obligations.DelayIsExactlyDelayCountTicks := by
  intro s t hedges he
  obtain ⟨hwf, -, rfl⟩ := execSeqAssert_next_iff.1 he
  have hrun : ∀ k ≤ s.cfg.delayCount, runFor k (afterAssert s) = .next (setIter k (afterAssert s)) := fun k hk => by
    have hcount : (afterAssert s).iter + k = k := Nat.zero_add k
    have hdelay := runFor_of_delay (s := afterAssert s) hwf hedges ⟨rfl, rfl⟩ (hcount.trans_le hk)
    rwa [hcount] at hdelay
  refine ⟨fun k hk => ⟨_, hrun k hk.le, ?tick⟩, _, hrun _ le_rfl, ?deassert⟩
  case tick => exact (performs_seqTick (s := setIter k (afterAssert s)) hwf hedges ⟨rfl, rfl⟩ hk).sequencerOp_eq
  case deassert =>
    exact (performs_seqDeassert (s := setIter s.cfg.delayCount (afterAssert s)) hwf hedges ⟨rfl, rfl⟩
      rfl).sequencerOp_eq

/-- A list goes on from the state its first part gives. -/
theorem execList_append_of {ops : List Instr} {s t : State} (rest : List Instr) (h : execList ops s = .next t) :
    execList (ops ++ rest) s = execList rest t := by
  induction ops generalizing s with
  | nil =>
    cases h
    rfl
  | cons i ops ih =>
    rw [List.cons_append, execList]
    rw [execList] at h
    cases hi : exec i s with
    | next u =>
      rw [hi] at h
      exact ih h
    | fault r =>
      rw [hi] at h
      cases h
    | refused r =>
      rw [hi] at h
      cases h

/-- `n` edges from `s`, and the operations of a list one after another, both end in `t` (30_encoding R83). -/
structure RunsAs (n : Nat) (ops : List Instr) (s t : State) : Prop where
  byEdges : runFor n s = .next t
  byList : execList ops s = .next t

theorem RunsAs.trans {m n : Nat} {ops rest : List Instr} {s t u : State} (h : RunsAs m ops s t)
    (hrest : RunsAs n rest t u) : RunsAs (m + n) (ops ++ rest) s u :=
  ⟨(runFor_add_of n h.byEdges).trans hrest.byEdges, (execList_append_of rest h.byList).trans hrest.byList⟩

theorem Performs.runsAs {i : Instr} {s t : State} (h : Performs i s t) : RunsAs 1 [i] s t :=
  ⟨runFor_succ_of_step 0 h.step_eq, execList_cons_of_exec [] h.executed⟩

/-- A whole delay, begun at 0 (41 R100). -/
theorem runsAs_spinDelay {s : State} (hwf : s.cfg.WellFormed) (hedges : s.edges = [])
    (hat : s.AtSeq .pinHigh .phDelay) (hzero : s.iter = 0) :
    RunsAs s.cfg.delayCount (spinDelay s.cfg.delayCount) s (setIter s.cfg.delayCount s) := by
  have hcount : s.iter + s.cfg.delayCount = s.cfg.delayCount := by omega
  have hrun := runFor_of_delay hwf hedges hat hcount.le
  have hlist := execList_spinDelay hwf hat hcount.le
  rw [hcount] at hrun hlist
  exact ⟨hrun, hlist⟩

/-- The state after `T2` (42 section 3). -/
def afterTransition2 (s : State) : State :=
  { s with
    data := 0x00, iter := s.cfg.delayCount, seqState := .pinLow, seqPhase := .phAssert, seqno := s.seqno + 2,
    trace := s.trace ++ [⟨s.cfg.dataAddr, mask s.cfg, s.seqno⟩, ⟨s.cfg.dataAddr, 0x00, s.seqno + 1⟩] }

/-- `T2` is the assert, the delay and the deassert (30_encoding R83 (c)). -/
theorem runsAs_transition2 {s : State} (hwf : s.cfg.WellFormed) (hedges : s.edges = [])
    (hat : s.AtSeq .pinHigh .phAssert) :
    RunsAs (s.cfg.delayCount + 2) (transition2 s.cfg) s (afterTransition2 s) := by
  have hassert := performs_seqAssert hwf hedges hat
  have hspin := runsAs_spinDelay (s := afterAssert s) hwf hedges ⟨rfl, rfl⟩ rfl
  have hdeassert :=
    performs_seqDeassert (s := setIter s.cfg.delayCount (afterAssert s)) hwf hedges ⟨rfl, rfl⟩ rfl
  have hend : afterDeassert (setIter s.cfg.delayCount (afterAssert s)) = afterTransition2 s := by
    simp [afterTransition2, afterDeassert, afterAssert, setSeq, setIter, writeData, appendRecord]
  have hcount : 1 + (s.cfg.delayCount + 1) = s.cfg.delayCount + 2 := by omega
  have hall := hassert.runsAs.trans (hspin.trans hdeassert.runsAs)
  rwa [hend, afterAssert_cfg, hcount] at hall

/-- Settles O31, from `T2` as a run of edges and as a list. -/
theorem transitionTwoTakesDelayCountPlusTwo : Obligations.TransitionTwoTakesDelayCountPlusTwo := by
  intro s hwf hedges hstate hphase
  obtain ⟨hrun, hlist⟩ := runsAs_transition2 hwf hedges ⟨hstate, hphase⟩
  exact ⟨_, hrun, hlist, rfl⟩

/-- The direction write that begins cycle `k` (30_encoding R83 (d)). -/
theorem performs_direction {s : State} (k : Nat) (hwf : s.cfg.WellFormed) (hedges : s.edges = [])
    (hat : s.AtSeq (if k = 0 then .pinUnconfigured else .pinLow) .phAssert) :
    Performs (if k = 0 then .seqCfg else .seqLoop) s (afterDirection s) := by
  by_cases hk : k = 0
  · rw [if_pos hk] at hat ⊢
    exact performs_seqCfg hwf hedges hat
  · rw [if_neg hk] at hat ⊢
    exact performs_seqLoop hwf hedges hat

/-- Settles O32: the direction write and then `T2`, whose records follow its record. -/
theorem blinkCycleIsThreeWrites : Obligations.BlinkCycleIsThreeWrites := by
  intro s k hwf hedges hphase hstate
  have hdirection := performs_direction k hwf hedges ⟨hstate, hphase⟩
  have hcycle := hdirection.runsAs.trans (runsAs_transition2 hwf hedges ⟨rfl, rfl⟩)
  obtain ⟨hrun, hlist⟩ := hcycle
  rw [Nat.add_comm] at hrun
  refine ⟨_, hrun, hlist, ?_⟩
  simp [afterTransition2, afterDirection, setSeq, writeDir, appendRecord]

end Sys2Proof.Machine
end

section
/-! The closed form (42 R121): one step of it, from which the run, its trace and its pins follow. -/

namespace Sys2Proof.Machine

open Safety

/-- The place in the cycle of a step count (42 R121). -/
theorem mul_add_mod_of_place (c : Config) (k : Nat) {r : Nat} (h : r < c.delayCount + 3) :
    (k * (c.delayCount + 3) + r) % (c.delayCount + 3) = r := by
  rw [Nat.mul_add_mod_self_right, Nat.mod_eq_of_lt h]

theorem opAfter_low (c : Config) (k : Nat) : opAfter c ((k + 1) * (c.delayCount + 3)) = .seqLoop := by
  simp [opAfter]

theorem opAfter_assertDue (c : Config) (k : Nat) : opAfter c (k * (c.delayCount + 3) + 1) = .seqAssert := by
  simp [opAfter]

theorem opAfter_ticking (c : Config) (k : Nat) {j : Nat} (hj : j < c.delayCount) :
    opAfter c (k * (c.delayCount + 3) + (j + 2)) = .seqTick := by
  have hplace := mul_add_mod_of_place c k (r := j + 2) (by omega)
  simp [opAfter, hplace, hj.ne]

theorem opAfter_ticked (c : Config) (k : Nat) :
    opAfter c (k * (c.delayCount + 3) + (c.delayCount + 2)) = .seqDeassert := by
  have hplace := mul_add_mod_of_place c k (r := c.delayCount + 2) (by omega)
  simp [opAfter, hplace]

/-- One step of the closed form: at each place of a run SEQ performs the operation named, and goes to the next place
(42 R121). -/
theorem performs_stateAfter {c : Config} (n : Nat) (hwf : c.WellFormed) :
    Performs (opAfter c n) (stateAfter c n) (stateAfter c (n + 1)) := by
  obtain rfl | ⟨k, rfl⟩ | ⟨k, rfl⟩ | ⟨k, j, hj, rfl⟩ := stepCount_cases c n
  · have hnext := stateAfter_assertDue c 0
    rw [Nat.zero_mul, Nat.mul_zero, controllerTrace_succ, traceRecord_direction c rfl] at hnext
    rw [stateAfter_zero, hnext]
    exact performs_seqCfg hwf rfl ⟨rfl, rfl⟩
  · rw [opAfter_low, stateAfter_low, stateAfter_assertDue, controllerTrace_succ, traceRecord_direction c (by omega),
      if_neg k.succ_ne_zero, if_neg k.succ_ne_zero]
    exact performs_seqLoop hwf rfl ⟨rfl, rfl⟩
  · rw [opAfter_assertDue, stateAfter_assertDue, stateAfter_delay c k (Nat.zero_le _), controllerTrace_succ c (3 * k + 1),
      traceRecord_assert c (by omega)]
    exact performs_seqAssert hwf rfl ⟨rfl, rfl⟩
  · obtain hlt | rfl := hj.lt_or_eq
    · rw [opAfter_ticking c k hlt, stateAfter_delay c k hj, Nat.add_assoc, Nat.add_right_comm j,
        stateAfter_delay c k hlt]
      exact performs_seqTick hwf rfl ⟨rfl, rfl⟩ hlt
    · have hnext : k * (c.delayCount + 3) + (c.delayCount + 2) + 1 = (k + 1) * (c.delayCount + 3) := by
        rw [Nat.add_mul, Nat.one_mul, Nat.add_assoc]
      rw [opAfter_ticked, stateAfter_delay c k hj, hnext, stateAfter_low, show 3 * (k + 1) = 3 * k + 2 + 1 from rfl,
        controllerTrace_succ c (3 * k + 2), traceRecord_deassert c (by omega)]
      exact performs_seqDeassert hwf rfl ⟨rfl, rfl⟩ rfl

/-- The run from reset, in closed form (42 R121). -/
theorem runFor_resetOf {c : Config} (n : Nat) (hwf : c.WellFormed) :
    runFor n (State.resetOf c) = .next (stateAfter c n) := by
  induction n with
  | zero => rw [stateAfter_zero, runFor_zero]
  | succ n ih => rw [runFor_succ_of ih, (performs_stateAfter n hwf).step_eq]

/-- Settles O33, by induction on the steps. -/
theorem runFromResetIsTheClosedForm : Obligations.RunFromResetIsTheClosedForm :=
  fun _ n hwf => ⟨runFor_resetOf n hwf, (performs_stateAfter n hwf).sequencerOp_eq⟩

/-- The trace at the end of a cycle (42 R121). -/
theorem stateAfter_cycles_trace (c : Config) (K : Nat) :
    (stateAfter c (K * (c.delayCount + 3))).trace = controllerTrace c (3 * K) := by
  cases K with
  | zero => rw [Nat.zero_mul, stateAfter_zero, resetOf_trace, Nat.mul_zero, controllerTrace_zero]
  | succ k => rw [stateAfter_low]

/-- `K` cycles write the three writes of a cycle `K` times (42 section 3). -/
theorem controllerTrace_writes (c : Config) (K : Nat) :
    (controllerTrace c (3 * K)).map (fun r => (r.address, r.value)) =
      (List.replicate K [(c.dirAddr, mask c), (c.dataAddr, mask c), (c.dataAddr, 0x00)]).flatten := by
  induction K with
  | zero => rfl
  | succ K ih =>
    have hcycle : controllerTrace c (3 * (K + 1)) = controllerTrace c (3 * K) ++
        [⟨c.dirAddr, mask c, 3 * K⟩, ⟨c.dataAddr, mask c, 3 * K + 1⟩, ⟨c.dataAddr, 0x00, 3 * K + 2⟩] := by
      rw [show 3 * (K + 1) = 3 * K + 1 + 1 + 1 from rfl, controllerTrace_succ, controllerTrace_succ, controllerTrace_succ,
        traceRecord_direction c (by omega), traceRecord_assert c (by omega), traceRecord_deassert c (by omega),
        List.append_assoc, List.append_assoc]
      rfl
    rw [hcycle, List.map_append, ih, List.replicate_succ', List.flatten_append]
    rfl

/-- Settles O34: the end of a cycle is a place of the closed form, which every run follows. -/
theorem controllerNeverTerminates : Obligations.ControllerNeverTerminates := by
  refine fun c K hwf => ⟨⟨_, runFor_resetOf _ hwf, ?_, ?_⟩, fun n => ⟨_, runFor_resetOf n hwf⟩⟩
  · rw [stateAfter_cycles_trace, controllerTrace_length]
  · rw [stateAfter_cycles_trace, controllerTrace_writes]

/-- A state whose `DIR` is `MASK` drives pin `LED_PIN` (10_state R31, R32). -/
theorem level_ledPin {c : Config} {s : State} {p : Fin 8} (hpin : c.ledPin < 8) (hp : p.val = c.ledPin)
    (hdir : s.dir = mask c) : level s p = some (s.data.getLsbD p) :=
  level_of_driven (by simp [hdir, mask_getLsbD hpin, hp])

/-- Settles O36: `DIR` is `MASK` at every place after the first step, and `DATA` is `MASK` in the delay alone. -/
theorem ledPinWaveform : Obligations.LedPinWaveform := by
  intro c n p hwf hp hn
  refine ⟨_, runFor_resetOf n hwf, ?_⟩
  obtain rfl | ⟨k, rfl⟩ | ⟨k, rfl⟩ | ⟨k, j, hj, rfl⟩ := stepCount_cases c n
  · omega
  · rw [stateAfter_low, level_ledPin hwf.1 hp rfl]
    simp
  · have hk : k ≠ 0 := by
      rintro rfl
      omega
    rw [stateAfter_assertDue, level_ledPin hwf.1 hp rfl, mul_add_mod_of_place c k (by omega)]
    simp [hk]
  · rw [stateAfter_delay c k hj, level_ledPin hwf.1 hp rfl, mul_add_mod_of_place c k (by omega)]
    simp [mask_getLsbD hwf.1, hp]

end Sys2Proof.Machine
end

section
/-! What SEQ never consults (10_state section 6, 20_memory R65): the registers and the inputs to come. Two states that
differ in nothing else take the same steps, so neither the registers nor ENV's writes reach the trace. -/

namespace Sys2Proof.Machine

open Safety

/-- `s` with other registers and another list of inputs. -/
def withOutside (d e : Byte) (es : List Edge) (s : State) : State := { s with dir := d, data := e, edges := es }

@[simp] theorem withOutside_edges (d e : Byte) (es : List Edge) (s : State) : (withOutside d e es s).edges = es := rfl

/-- `u` is `s` but for its registers, with the inputs `es`. -/
def SameSequencer (es : List Edge) (s u : State) : Prop := ∃ d e, u = withOutside d e es s

/-- Both go on, to states that are the same but for their registers and the inputs `es`, or both are refused for one
reason. -/
inductive SameOutcome (es : List Edge) : Result → Result → Prop
  | next {t u : State} (h : SameSequencer es t u) : SameOutcome es (.next t) (.next u)
  | refused (r : Refusal) : SameOutcome es (.refused r) (.refused r)

section Same

variable {es : List Edge} {s t u : State}

theorem SameSequencer.cfg_eq (h : SameSequencer es s u) : u.cfg = s.cfg := by
  obtain ⟨d, e, rfl⟩ := h
  rfl

theorem SameSequencer.edges_eq (h : SameSequencer es s u) : u.edges = es := by
  obtain ⟨d, e, rfl⟩ := h
  rfl

/-- The selection word is made of `seq`, `iter` and the configuration (30_encoding R72). -/
theorem SameSequencer.selectionWord_eq (h : SameSequencer es s u) : selectionWord u = selectionWord s := by
  obtain ⟨d, e, rfl⟩ := h
  rfl

theorem SameSequencer.writeDir (v : Byte) (h : SameSequencer es s u) :
    SameSequencer es (writeDir v s) (writeDir v u) := by
  obtain ⟨d, e, rfl⟩ := h
  exact ⟨v, e, rfl⟩

theorem SameSequencer.writeData (v : Byte) (h : SameSequencer es s u) :
    SameSequencer es (writeData v s) (writeData v u) := by
  obtain ⟨d, e, rfl⟩ := h
  exact ⟨d, v, rfl⟩

theorem SameSequencer.recordWrite (issuer : Issuer) (a : Nat) (v : Byte) (h : SameSequencer es s u) :
    SameSequencer es (recordWrite issuer a v s) (recordWrite issuer a v u) := by
  obtain ⟨d, e, rfl⟩ := h
  cases issuer <;> exact ⟨d, e, rfl⟩

theorem SameSequencer.storeByte (a : Nat) (v : Byte) (h : SameSequencer es s u) :
    SameSequencer es (storeByte a v s) (storeByte a v u) := by
  unfold Machine.storeByte
  rw [h.cfg_eq]
  split_ifs
  · exact h.writeDir v
  · exact h.writeData v
  · exact h

theorem SameSequencer.outb (issuer : Issuer) (a : Nat) (v : Byte) (h : SameSequencer es s u) :
    SameSequencer es (outb issuer a v s) (outb issuer a v u) :=
  (h.recordWrite issuer a v).storeByte a v

theorem SameSequencer.setSeq (st : SeqState) (ph : Phase) (h : SameSequencer es s u) :
    SameSequencer es (setSeq st ph s) (setSeq st ph u) := by
  obtain ⟨d, e, rfl⟩ := h
  exact ⟨d, e, rfl⟩

theorem SameSequencer.setIter (n : Nat) (h : SameSequencer es s u) :
    SameSequencer es (setIter n s) (setIter n u) := by
  obtain ⟨d, e, rfl⟩ := h
  exact ⟨d, e, rfl⟩

/-- A register write that only one of the two takes leaves them the same but for the registers. -/
theorem SameSequencer.storeByte_right (a : Nat) (v : Byte) (h : SameSequencer es s u) :
    SameSequencer es s (Machine.storeByte a v u) := by
  obtain ⟨d, e, rfl⟩ := h
  unfold Machine.storeByte
  split_ifs
  · exact ⟨v, e, rfl⟩
  · exact ⟨d, v, rfl⟩
  · exact ⟨d, e, rfl⟩

/-- Taking an input off one list leaves the two the same in all else. -/
theorem SameSequencer.setEdges_right (rest : List Edge) (h : SameSequencer es s u) :
    SameSequencer rest s (setEdges rest u) := by
  obtain ⟨d, e, rfl⟩ := h
  exact ⟨d, e, rfl⟩

/-- The guard of 00_scope R11 looks at the configuration alone. -/
theorem SameOutcome.whenBuilt {k l : Result} (h : SameSequencer es s u) (hk : SameOutcome es k l) :
    SameOutcome es (whenBuilt s k) (whenBuilt u l) := by
  unfold Machine.whenBuilt
  rw [h.cfg_eq]
  split_ifs
  · exact hk
  · exact .refused _

theorem SameOutcome.require (p : Prop) [Decidable p] (m : String) (h : SameSequencer es t u) :
    SameOutcome es (require p m t) (require p m u) := by
  unfold Machine.require
  split_ifs
  · exact .next h
  · exact .refused _

/-- No operation consults the registers or the inputs (10_state section 6). -/
theorem exec_sameOutcome (i : Instr) (h : SameSequencer es s u) : SameOutcome es (exec i s) (exec i u) := by
  have hcopy := h
  obtain ⟨d, e, rfl⟩ := hcopy
  cases i with
  | outbDir issuer v => exact .whenBuilt h (.next ((h.recordWrite issuer _ v).writeDir v))
  | outbData issuer v => exact .whenBuilt h (.next ((h.recordWrite issuer _ v).writeData v))
  | outbUnmapped issuer a v =>
    refine .whenBuilt h ?_
    by_cases ha : s.cfg.Unmapped a
    · rw [if_pos ha, if_pos (show (withOutside d e es s).cfg.Unmapped a from ha)]
      exact .next (h.recordWrite issuer a v)
    · rw [if_neg ha, if_neg (show ¬ (withOutside d e es s).cfg.Unmapped a from ha)]
      exact .refused _
  | seqCfg => exact .whenBuilt h (.require _ _ ((h.outb .seq _ _).setSeq _ _))
  | seqAssert => exact .whenBuilt h (.require _ _ (((h.outb .seq _ _).setIter 0).setSeq _ _))
  | seqTick => exact .whenBuilt h (.require _ _ (h.setIter _))
  | seqDeassert => exact .whenBuilt h (.require _ _ ((h.outb .seq _ _).setSeq _ _))
  | seqLoop => exact .whenBuilt h (.require _ _ ((h.outb .seq _ _).setSeq _ _))

/-- Where one operation goes on, so does the other. -/
theorem exec_next_of_sameSequencer {i : Instr} (h : SameSequencer es s u) (he : exec i s = .next t) :
    ∃ u', exec i u = .next u' ∧ SameSequencer es t u' := by
  have hsame := exec_sameOutcome i h
  rw [he] at hsame
  generalize exec i u = r at hsame ⊢
  cases hsame with
  | next h' => exact ⟨_, rfl, h'⟩

/-- The events of two edges are the same, on states that are the same but for the registers. -/
inductive SameFetched (es : List Edge) : Fetched → Fetched → Prop
  | reset {t u : State} (h : SameSequencer es t u) : SameFetched es (.reset t) (.reset u)
  | word (place : Place) (w : Nat) {t u : State} (h : SameSequencer es t u) :
      SameFetched es (.word place w t) (.word place w u)
  | absent (why : Refusal) : SameFetched es (.absent why) (.absent why)

/-- An ENV edge brings ENV's word, where ENV exists (20_memory R65). -/
theorem fetch_of_env {w : Nat} {rest : List Edge} (hedges : s.edges = .env w :: rest)
    (hext : s.cfg.extWriters = true) : fetch s = .word (.writePort .env) w (setEdges rest s) := by
  simp [fetch, hedges, hext]

/-- Without ENV there is no such event (20_memory R65). -/
theorem fetch_of_env_of_closed {w : Nat} {rest : List Edge} (hedges : s.edges = .env w :: rest)
    (hclosed : s.cfg.extWriters = false) : fetch s = .absent .noExternalWriter := by
  simp [fetch, hedges, hclosed]

/-- What the next edge brings does not depend on the registers. -/
theorem fetch_sameFetched (h : SameSequencer s.edges s u) : SameFetched s.edges.tail (fetch s) (fetch u) := by
  obtain ⟨d, e, rfl⟩ := h
  cases hedges : s.edges with
  | nil =>
    simp only [fetch, withOutside_edges, hedges]
    exact .word _ _ ⟨d, e, rfl⟩
  | cons edge rest =>
    cases edge with
    | run =>
      simp only [fetch, withOutside_edges, hedges]
      exact .word _ _ ⟨d, e, rfl⟩
    | rst =>
      simp only [fetch, withOutside_edges, hedges]
      exact .reset ⟨d, e, rfl⟩
    | env w =>
      cases hext : s.cfg.extWriters with
      | false =>
        rw [fetch_of_env_of_closed hedges hext, fetch_of_env_of_closed (withOutside_edges ..) hext]
        exact .absent _
      | true =>
        rw [fetch_of_env hedges hext, fetch_of_env (withOutside_edges ..) hext]
        exact .word _ _ ⟨d, e, rfl⟩

/-- A step does not depend on the registers (10_state section 6). -/
theorem step_sameOutcome (h : SameSequencer s.edges s u) : SameOutcome s.edges.tail (step s) (step u) := by
  have hfetch := fetch_sameFetched h
  unfold step
  generalize fetch s = f, fetch u = g at hfetch ⊢
  cases hfetch with
  | reset h' =>
    refine .whenBuilt h' ?_
    rw [h'.cfg_eq]
    obtain ⟨d, e, rfl⟩ := h'
    exact .next ⟨_, _, rfl⟩
  | word place w h' =>
    simp only [h'.cfg_eq]
    split
    · exact exec_sameOutcome _ h'
    · exact .refused _
  | absent why => exact .refused why

/-- What SEQ performs does not depend on the registers (10_state section 6). -/
theorem sequencerOp_of_sameSequencer (h : SameSequencer s.edges s u) : sequencerOp u = sequencerOp s := by
  have hfetch := fetch_sameFetched h
  unfold sequencerOp
  generalize fetch s = f, fetch u = g at hfetch ⊢
  cases hfetch with
  | reset _ => rfl
  | word place w h' => cases place <;> simp only [h'.cfg_eq]
  | absent _ => rfl

/-- Every step takes its edge off the inputs. -/
theorem step_edges (h : step s = .next t) : t.edges = s.edges.tail := by
  obtain ⟨-, ⟨rest, hedges, rfl⟩ | ⟨w, rest, hedges, -, -, rfl⟩ | ⟨rest, i, hseq, hd, he⟩⟩ := step_next_cases h
  · simp [hedges]
  · simp [hedges]
  · have hkeep : t.edges = rest := sequencer_step_keeps_edges (s := setEdges rest s) hd he
    obtain ⟨hedges, rfl⟩ | hedges := hseq <;> simp [hkeep, hedges]

/-- The register effect of a write, on the whole state (20_memory R46). -/
theorem storeByte_eq (a : Nat) (v : Byte) (h : s.cfg.dirAddr ≠ s.cfg.dataAddr) :
    storeByte a v s = { s with
      dir := if a = s.cfg.dirAddr then v else s.dir
      data := if a = s.cfg.dataAddr then v else s.data } := by
  by_cases hdir : a = s.cfg.dirAddr
  · simp [storeByte, writeDir, hdir, h]
  · by_cases hdata : a = s.cfg.dataAddr <;> simp [storeByte, writeData, hdir, hdata, h.symm]

/-- Where there is no ENV, an ENV edge is refused (log 5). -/
theorem step_of_env_of_closed {w : Nat} {rest : List Edge} (hedges : s.edges = .env w :: rest)
    (hclosed : s.cfg.extWriters = false) : step s = .refused .noExternalWriter := by
  rw [step, fetch_of_env_of_closed hedges hclosed]

theorem sequencerSteps_run (rest : List Edge) : sequencerSteps (.run :: rest) = sequencerSteps rest + 1 := by
  simp [sequencerSteps]

/-- A run over listed run and possible ENV edges stays the closed run of as many SEQ steps, but for the registers
(20_memory R65). -/
theorem runFor_sameSequencer {c : Config} (hfree : FreeRunning c s) (hsame : SameSequencer es s u)
    (hes : ∀ e ∈ es, e ≠ .rst ∧ possibleEdge c e = true) :
    ∃ s' u', runFor es.length u = .next u' ∧ runFor (sequencerSteps es) s = .next s' ∧ SameSequencer [] s' u' := by
  induction es generalizing s u with
  | nil => exact ⟨s, u, rfl, rfl, hsame⟩
  | cons edge rest ih =>
    obtain ⟨⟨hnotReset, hpossible⟩, hrest⟩ := List.forall_mem_cons.1 hes
    have hsame' := hsame.setEdges_right rest
    cases edge with
    | rst => exact absurd rfl hnotReset
    | run =>
      obtain ⟨i, t, hd, he, hfree'⟩ := hfree.exists_step
      obtain ⟨v, hv, hsame''⟩ := exec_next_of_sameSequencer hsame' he
      obtain ⟨s', u', hu', hs', hend⟩ := ih hfree' hsame'' hrest
      have hdu : decode u.cfg .sequencer (selectionWord u) = .ok i := by
        rw [hsame.cfg_eq, hsame.selectionWord_eq, hd]
      have hustep := (step_of_run hsame.edges_eq hdu).trans hv
      have hsstep := (step_of_no_edges hfree.noInput hd).trans he
      rw [sequencerSteps_run]
      exact ⟨s', u', (runFor_succ_of_step _ hustep).trans hu', (runFor_succ_of_step _ hsstep).trans hs', hend⟩
    | env w =>
      obtain ⟨hext, hw⟩ := possibleEdge_env_iff.1 hpossible
      have hcfg : u.cfg = c := hsame.cfg_eq.trans hfree.cfg_eq
      subst hcfg
      have hustep := step_of_env_of_lt hfree.built hsame.edges_eq hext hw
      obtain ⟨s', u', hu', hs', hend⟩ := ih hfree (hsame'.storeByte_right _ _) hrest
      exact ⟨s', u', (runFor_succ_of_step _ hustep).trans hu', hs', hend⟩

end Same

/-- Settles O53: the two states are the same but for the registers, so their taps are one and their steps have the same
outcome. -/
theorem sequencerIgnoresTheRegisters : Obligations.SequencerIgnoresTheRegisters := by
  intro s d e
  have h : SameSequencer s.edges s { s with dir := d, data := e } := ⟨d, e, rfl⟩
  have hstep := step_sameOutcome h
  refine ⟨?tap, fun t ht => ?next, fun r hr => ?refused⟩
  case tap => rw [tap_eq_bind, tap_eq_bind, sequencerOp_of_sameSequencer h]
  case next =>
    have hrest := step_edges ht
    rw [ht] at hstep
    generalize step { s with dir := d, data := e } = r at hstep ⊢
    obtain ⟨d', e', rfl⟩ | - := hstep
    exact ⟨_, rfl, by rw [withOutside, ← hrest]⟩
  case refused =>
    rw [hr] at hstep
    generalize step { s with dir := d, data := e } = r' at hstep ⊢
    cases hstep
    rfl

/-- Settles O54: the word is in range because its address is, and all it does is its register effect. -/
theorem externalWriterOnlyWritesRegisters : Obligations.ExternalWriterOnlyWritesRegisters := by
  refine fun s a v rest hwf ha hedges => ⟨fun hext => ?_, step_of_env_of_closed hedges⟩
  have hstep := step_of_env_of_lt hwf hedges hext (transactionWord_lt v ha)
  obtain ⟨-, -, -, hne, -⟩ := hwf
  rw [← transactionWord, wordAddr_transactionWord, wordValue_transactionWord,
    storeByte_eq (s := setEdges rest s) a v hne] at hstep
  exact hstep

/-- Settles O55, from the reset state with the edges listed and without. -/
theorem traceIsUnaffectedByExternalWrites : Obligations.TraceIsUnaffectedByExternalWrites := by
  intro c es hwf hes
  obtain ⟨t, u, hu, ht, d, e, rfl⟩ :=
    runFor_sameSequencer (u := { State.resetOf c with edges := es }) (freeRunning_resetOf hwf) ⟨_, _, rfl⟩ hes
  exact ⟨_, t, hu, ht, rfl, rfl, rfl, rfl, rfl⟩

end Sys2Proof.Machine
end
